-- ==== Sys2Proof/Word.lean ====
section
/-! DEFINITION. The word types of the codec: the byte (R8), the 16-bit host operation word (R91) and the binary32 bit pattern
of a physical value (R11, R35). -/

namespace Sys2Proof

/-- A byte: an unsigned integer 0..255, bit 0 least significant (R8). -/
abbrev Byte := BitVec 8

/-- A host operation word `W` (R91). -/
abbrev Word := BitVec 16

/-- The bit pattern of an IEEE 754 binary32 value (R11, R166). -/
abbrev F32 := BitVec 32

end Sys2Proof
end

