-- ==== Sys2Proof/Config.lean ====
section
/-! DEFINITION. What is fixed for the block: the named parameters of R5, and the seven open scale factors of R6, which are
opaque constants here (D11), so that whatever is proved holds for every value of theirs that the spec admits. -/

namespace Sys2Proof.Config

/-- START_MARKER (R5): the first byte of every frame. -/
def startMarker : Byte := 0x49
/-- END_MARKER (R5): the last byte of every frame. -/
def endMarker : Byte := 0x4D
/-- BROADCAST (R5): the inbound address that is always rejected, and the target value that accepts any address. -/
def broadcast : Byte := 0xFF
/-- MAX_BODY (R5): the largest inbound length field accepted. -/
def maxBody : Nat := 73
/-- BUF_CAP (R5): the capacity of the scratch buffer in bytes. -/
def bufCap : Nat := maxBody + 5
/-- TX_MIN_BODY (R5): the smallest body the PacketBuilder accepts. -/
def txMinBody : Nat := 1
/-- TX_MAX_BODY (R5): the largest body the PacketBuilder accepts. -/
def txMaxBody : Nat := 31
/-- PREAMBLE_LEN (R5): how many zero bytes are sent before the synchronisation pattern. -/
def preambleLen : Nat := 46
/-- SYNC (R5): the synchronisation pattern after the preamble. -/
def sync : List Byte := [0x00, 0xFF, 0x00, 0xFF]
/-- TX_OVERHEAD (R5): transmitted length minus body length. -/
def txOverhead : Nat := 55
/-- CMD_REPORT (R5): the only command the PayloadDecoder decodes. -/
def cmdReport : Byte := 0x11
/-- The command byte of the outbound parameter block (R85, R87). -/
def cmdParams : Byte := 0x12
/-- The command byte of the outbound wake command (R85, R88). -/
def cmdWake : Byte := 0x03
/-- The command byte of the outbound auto-report command (R85, R88). -/
def cmdAutoreport : Byte := 0x19
/-- REPORT_PREFIX (R5): the minimum 0x11 body length that yields a sample. -/
def reportPrefix : Nat := 7

/-- SCALE_ACCEL = 0.00478515625 (R5), the decimal constant written as `scaleAccelNum / scaleAccelDen`. -/
def scaleAccelNum : Nat := 478515625
/-- The denominator of SCALE_ACCEL's decimal constant (R5): 10^11. -/
def scaleAccelDen : Nat := 100000000000

/-- A scale parameter is a positive finite binary32 value below 2^100 (R166, D11). Those values have the bit patterns
0x00000001 to 0x717FFFFF, in increasing order: scale number `k` is the one with the pattern `k + 1`. -/
abbrev Scale := Fin 0x717FFFFF

/-- The binary32 bit pattern of a scale parameter. -/
def Scale.bits (k : Scale) : F32 := BitVec.ofNat 32 (k.val + 1)

/-- SCALE_ANGLE_SPEED, deg/s per count: open (R6, D11), log entry 6. -/
opaque scaleAngleSpeed : Scale
/-- SCALE_MAG, µT per count: open (R6, D11), log entry 6. -/
opaque scaleMag : Scale
/-- SCALE_TEMPERATURE, °C per count: open (R6, D11), log entry 6. -/
opaque scaleTemperature : Scale
/-- SCALE_AIR_PRESSURE, hPa per count: open (R6, D11), log entry 6. -/
opaque scaleAirPressure : Scale
/-- SCALE_HEIGHT, m per count: open (R6, D11), log entry 6. -/
opaque scaleHeight : Scale
/-- SCALE_QUAT, per count: open (R6, D11), log entry 6. -/
opaque scaleQuat : Scale
/-- SCALE_ANGLE, deg per count: open (R6, D11), log entry 6. -/
opaque scaleAngle : Scale

end Sys2Proof.Config
end

