-- ==== Sys2Proof/Syntax.lean ====
section
/-! DEFINITION. The instructions: one constructor per row of the opcode table. Four are host operations (R92). Five are
frame commands (R85): the command byte of a frame's body, `body[0]`, with the rest of the body as its operands; 0x11 and
"any other" are inbound, 0x12, 0x03 and 0x19 are outbound (R85's direction column). The assembler lines of R97 and R98
are at the end. -/

namespace Sys2Proof

/-- The operands of the 0x12 parameter block, `body[1..11)` (R87). The block treats them as opaque bytes. -/
structure ParamBlock where
  /-- `body[1..4)`, the static thresholds -/
  threshold0 : Byte
  threshold1 : Byte
  threshold2 : Byte
  /-- `body[4]`, the packed filter/compass byte -/
  filterCompass : Byte
  /-- `body[5]`, the report rate -/
  rate : Byte
  /-- `body[6..9)`, the three filter bytes -/
  filter0 : Byte
  filter1 : Byte
  filter2 : Byte
  /-- `body[9..11)`, the subscribe tag, little-endian -/
  tag : BitVec 16
deriving DecidableEq, Repr

/-- The instructions of spec/opcode_table.json, in its order. -/
inductive Instr where
  /-- FEED b: one received byte (R120). -/
  | feed (b : Byte)
  /-- RESET (R230). -/
  | reset
  /-- SET_TARGET v (R232). -/
  | setTarget (v : Byte)
  /-- SEND a, b: destination address and the body from the body port (R200). -/
  | send (a : Byte) (b : List Byte)
  /-- CMD_SENSOR_REPORT: the inbound body `0x11 :: rest` (R160). -/
  | cmdSensorReport (rest : List Byte)
  /-- CMD_PARAMS: the outbound 11-byte body of command 0x12, for device `a` (R87). -/
  | cmdParams (a : Byte) (p : ParamBlock)
  /-- CMD_WAKE: the outbound body `[0x03]`, for device `a` (R88). -/
  | cmdWake (a : Byte)
  /-- CMD_AUTOREPORT: the outbound body `[0x19]`, for device `a` (R88). -/
  | cmdAutoreport (a : Byte)
  /-- CMD_OTHER_INBOUND: the inbound body `c :: rest` with `c ≠ 0x11`, 0x12, 0x03 and 0x19 included (R161). -/
  | cmdOtherInbound (c : Byte) (rest : List Byte)
deriving DecidableEq, Repr

/-- The assembler lines: the host operations (R97) and the pseudo-operations (R98). -/
inductive Asm where
  /-- `FEED 0xbb` -/
  | feed (b : Byte)
  /-- `RESET` -/
  | reset
  /-- `SETTGT 0xaa` -/
  | setTgt (v : Byte)
  /-- `SEND 0xaa, [b0, b1, …]` -/
  | send (a : Byte) (b : List Byte)
  /-- `FEEDS b0, b1, …, bk` -/
  | feeds (bs : List Byte)
  /-- `FEEDFRAME a, [b…]` -/
  | feedFrame (a : Byte) (b : List Byte)
  /-- `WAKE a` -/
  | wake (a : Byte)
  /-- `AUTOREPORT a` -/
  | autoReport (a : Byte)
  /-- `PARAMS a, [p1 … p10]` -/
  | params (a : Byte) (p : ParamBlock)
deriving DecidableEq, Repr

end Sys2Proof
end

