-- ==== Sys2Proof/Machine/State.lean ====
section
/-! DEFINITION. The block's state: exactly the table of R20, and beside it the two fields by which the step function hears of
the world outside the block (`host` and `txPort`: the model's own, log entries 1 and 2). Plain data throughout. -/

namespace Sys2Proof.Machine

/-- The FrameDecoder's `state`: a closed sum type of six states (R22). -/
inductive Fsm where
  /-- AwaitStart: the next byte is a candidate START_MARKER. -/
  | awaitStart
  /-- Address: the next byte is the frame's address. -/
  | address
  /-- Length: the next byte is the frame's length. -/
  | length
  /-- Data: the next byte is a body byte. -/
  | data
  /-- Checksum: the next byte is the frame's checksum. -/
  | checksum
  /-- End: the next byte is the frame's END_MARKER. -/
  | frameEnd
deriving DecidableEq, Repr

/-- The scratch buffer `buf` (R24, R60): the bytes that have been written, as (index, byte) pairs with the indices strictly
rising. -/
abbrev Memory := List Host.Cell

/-- The diagnostic codes (R250). -/
inductive DiagCode where
  | addrBroadcast
  | lenInvalid
  | checksumMismatch
  | badTerminator
  | addrMismatch
  | cmdIgnored
  | shortReport
  | reportTruncated
deriving DecidableEq, Repr

/-- The results of a SEND (R251). -/
inductive SendResult where
  | ok
  | errLen
  | errTx
deriving DecidableEq, Repr

/-- One field of a sample: the raw integer and the physical value it was scaled to (R35). -/
structure Reading where
  raw : Int
  phys : F32
deriving DecidableEq, Repr

/-- Three axes (R35). -/
structure Vec3 where
  x : Reading
  y : Reading
  z : Reading
deriving DecidableEq, Repr

/-- The orientation quaternion, in the order w, x, y, z (R35, R176). -/
structure Quat where
  w : Reading
  x : Reading
  y : Reading
  z : Reading
deriving DecidableEq, Repr

/-- The sample record (R35): 22 physical fields, the tag as received, the timestamp and the mask of the groups decoded. -/
structure Sample where
  tag : BitVec 16
  ts : BitVec 32
  present : BitVec 7
  acc : Vec3
  accg : Vec3
  gyr : Vec3
  mag : Vec3
  temp : Reading
  press : Reading
  height : Reading
  quat : Quat
  eul : Vec3
deriving DecidableEq, Repr

/-- The events of the output stream (R34). -/
inductive Event where
  /-- FRAME(cmd, body) -/
  | frame (cmd : Byte) (body : List Byte)
  /-- SAMPLE(rec) -/
  | sample (rec : Sample)
  /-- DIAG(code, info) -/
  | diag (code : DiagCode) (info : List Byte)
  /-- RESULT(code) -/
  | result (code : SendResult)
  /-- TX(bytes) -/
  | tx (bytes : List Byte)
deriving DecidableEq, Repr

/-- What the transmit port answers to a call (R204). -/
inductive TxOutcome where
  /-- `Written(k)`: the transport reported k bytes written. -/
  | written (k : Nat)
  /-- `Failed(j)`: the transport raised an error, and j bytes had reached the wire. -/
  | failed (j : Nat)
deriving DecidableEq, Repr

/-- One operation the host issues: its word, what stands on the body port beside it (R91), and what the transport will
answer should the operation make a transmit call (R204). -/
structure HostOp where
  word : Word
  port : List Byte
  answer : TxOutcome
deriving DecidableEq, Repr

/-- The state (R20), and the model's own `host` and `txPort`. -/
structure State where
  /-- R22 -/
  state : Fsm
  /-- R24 -/
  buf : Memory
  /-- R26 -/
  idx : Nat
  /-- R27 -/
  sum : Byte
  /-- TARGET_ADDR (R30, R31) -/
  targetAddr : Byte
  /-- R34, oldest event first -/
  out : List Event
  /-- R36 -/
  refused : Bool
  /-- MODEL: the operations issued and not yet taken, oldest first (log entry 1). -/
  host : List HostOp
  /-- MODEL: what the transmit port answers to a call made in this step (log entry 2). -/
  txPort : TxOutcome
deriving DecidableEq, Repr

/-- Why a step can stop. No run from reset reaches one of them (R29, R61, R253). -/
inductive Fault where
  /-- A BufWrite at index `i ≥ 78`, which R61 leaves undefined. Raised by FEED. Safe: the machine stops where the rules
  give no effect. -/
  | bufWriteOutside (i : Nat)
  /-- A BufRead of index `i` with `i ≥ idx`, which R61 leaves undefined, or of a byte that nothing has written. Raised by
  FEED. Safe, as above. -/
  | bufReadOutside (i : Nat)
  /-- A completed frame with no body byte, so that `body[0]` does not exist (R131 takes rLen ≥ 1). Raised by FEED. Safe,
  as above. -/
  | emptyBody
deriving DecidableEq, Repr

/-- Why exec can answer without a meaning. -/
inductive Refusal where
  /-- An instruction that has no meaning in the model. Raised by exec's refused arms; there is none in this model. Safe. -/
  | notModelled (mnemonic : String)
deriving DecidableEq, Repr

/-- Power-on reset (R290). `buf` is unspecified there and holds no value here (log entry 4); `host` and `txPort` are the
model's own (log entries 1, 2). -/
def State.reset : State where
  state := .awaitStart
  buf := []
  idx := 0
  sum := 0
  targetAddr := 255
  out := []
  refused := false
  host := []
  txPort := .failed 0

end Sys2Proof.Machine
end

