-- ==== Sys2Proof/Machine/Ops.lean ====
section
/-! DEFINITION. The named operations over the state (R11): the scratch buffer, the output stream, Abandon and the rejection
(what this block has in place of an exception, R264), and the host's and the transmit port's sides of a step. -/

namespace Sys2Proof.Machine

/-- The outcome of a step. -/
abbrev Outcome := Host.Outcome State Fault Refusal

/-! ### The scratch buffer -/

/-- What a byte of `buf` that nothing has written reads as: no value (R25, log entry 4). -/
def Memory.unlisted (_ : Nat) : Option Byte := none

/-- The byte at index `a`, if it has a value. -/
def Memory.read : Memory → Nat → Option Byte
  | [], a => Memory.unlisted a
  | c :: m, a => if c.1 = a then some c.2 else Memory.read m a

/-- The buffer with `v` at index `a`, the indices kept in rising order. -/
def Memory.write : Memory → Nat → Byte → Memory
  | [], a, v => [(a, v)]
  | c :: m, a, v =>
    if c.1 = a then (a, v) :: m
    else if a < c.1 then (a, v) :: c :: m
    else c :: Memory.write m a v

/-- Every index is at least `lo`, and they rise strictly. -/
def Memory.risingFrom : Nat → Memory → Bool
  | _, [] => true
  | lo, c :: m => decide (lo ≤ c.1) && Memory.risingFrom (c.1 + 1) m

/-- The canonical form: indices strictly rising, none of them outside `buf`, and no entry that an unlisted index reads as. -/
def Memory.wf (m : Memory) : Bool :=
  Memory.risingFrom 0 m && m.all fun c => decide (c.1 < Config.bufCap) && decide (some c.2 ≠ Memory.unlisted c.1)

/-- `bs` written from index `i` on. -/
def Memory.place : Memory → Nat → List Byte → Memory
  | m, _, [] => m
  | m, i, b :: bs => Memory.place (m.write i b) (i + 1) bs

/-- `BufRead(i)`, defined for `i < idx` (R61). -/
def State.bufRead (s : State) (i : Nat) : Option Byte := if i < s.idx then s.buf.read i else none

/-- `[BufRead(i), …, BufRead(i + n - 1)]`, or the first index that has no value. -/
def State.bufReadRange (s : State) : Nat → Nat → Except Nat (List Byte)
  | _, 0 => .ok []
  | i, n + 1 =>
    match s.bufRead i with
    | none => .error i
    | some b => (s.bufReadRange (i + 1) n).map (b :: ·)

/-! ### Updates -/

/-- `emit` of events, in order (R11, R73). -/
def State.emit (s : State) (es : List Event) : State := { s with out := s.out ++ es }

/-- `Abandon()` (R134). -/
def State.abandon (s : State) : State := { s with state := .awaitStart, idx := 0, sum := 0 }

/-- `buf[i] <- b`, `idx <- i + 1`, `sum <- m`, `state <- st`: what every transition that keeps its byte does (R121a, R123,
R125, R126, R127). -/
def State.keep (s : State) (i : Nat) (b m : Byte) (st : Fsm) : State :=
  { s with buf := s.buf.write i b, idx := i + 1, sum := m, state := st }

/-- `state <- st`. -/
def State.goto (s : State) (st : Fsm) : State := { s with state := st }

/-- `TARGET_ADDR <- v` (R232). -/
def State.setTarget (s : State) (v : Byte) : State := { s with targetAddr := v }

/-- A reserved host word: `refused <- true`, nothing else (R95). -/
def State.refuse (s : State) : State := { s with refused := true }

/-- The block takes the operation `op`; `rest` is what the host has issued after it. -/
def State.take (s : State) (op : HostOp) (rest : List HostOp) : State := { s with host := rest, txPort := op.answer }

/-! ### Shared operations of the FrameDecoder -/

/-- Keep a byte at index `i`; `BufWrite` is defined for `i < 78` (R61). -/
def keepByte (i : Nat) (b m : Byte) (st : Fsm) (s : State) : Outcome :=
  if i < Config.bufCap then .next (s.keep i b m st) else .fault (.bufWriteOutside i)

/-- A rejection (R264): it emits its DIAG, discards the attempt and enters AwaitStart. Nothing is saved, and there is no
return (R265). -/
def reject (code : DiagCode) (info : List Byte) (s : State) : Outcome := .next ((s.emit [.diag code info]).abandon)

/-- Then `Abandon()`: the end of a completed frame (R131). -/
def thenAbandon : Outcome → Outcome
  | .next s => .next s.abandon
  | .fault r => .fault r
  | .refused r => .refused r

/-! ### Numbers of the names -/

/-- The reference numbers of the FSM states (R22). -/
def Fsm.number : Fsm → Nat
  | .awaitStart => 0
  | .address => 1
  | .length => 2
  | .data => 3
  | .checksum => 4
  | .frameEnd => 5

/-- The diagnostic codes' numbers (R250). -/
def DiagCode.number : DiagCode → Byte
  | .addrBroadcast => 0x01
  | .lenInvalid => 0x02
  | .checksumMismatch => 0x03
  | .badTerminator => 0x04
  | .addrMismatch => 0x05
  | .cmdIgnored => 0x06
  | .shortReport => 0x07
  | .reportTruncated => 0x08

/-- The SEND results' numbers (R251). -/
def SendResult.number : SendResult → Nat
  | .ok => 0
  | .errLen => 1
  | .errTx => 2

end Sys2Proof.Machine
end

