-- ==== Sys2Proof/Machine/Control.lean ====
section
/-! DEFINITION. The control operations RESET and SET_TARGET (R230, R232). -/

namespace Sys2Proof.Machine

/-- RESET (R230): a partial reset, which leaves TARGET_ADDR, `out` and `refused` as they are (R291). -/
def execReset (s : State) : Outcome := .next s.abandon

/-- SET_TARGET v (R232). -/
def execSetTarget (v : Byte) (s : State) : Outcome := .next (s.setTarget v)

end Sys2Proof.Machine
end

