-- ==== Sys2Proof/Machine/Operands.lean ====
section
/-! DEFINITION. Operand forms of a 0x11 body: little-endian assembly and sign extension (R9, R89, R165), binary32 scaling
(R166), the groups (R86) and one definition per group rule (R171 to R177). -/

namespace Sys2Proof.Machine

/-! ### Assembly of multi-byte values (R9) -/

/-- `le16(b0, b1) = b0 + 256*b1`. -/
def le16 (b0 b1 : Byte) : Nat := b0.toNat + 256 * b1.toNat

/-- `le24(b0, b1, b2) = b0 + 256*b1 + 65536*b2`. -/
def le24 (b0 b1 b2 : Byte) : Nat := b0.toNat + 256 * b1.toNat + 65536 * b2.toNat

/-- `le32(b0, b1, b2, b3) = b0 + 2^8*b1 + 2^16*b2 + 2^24*b3`. -/
def le32 (b0 b1 b2 b3 : Byte) : Nat := b0.toNat + 2 ^ 8 * b1.toNat + 2 ^ 16 * b2.toNat + 2 ^ 24 * b3.toNat

/-- `sext_N(v) = v - 2^N` if `v[N-1] = 1`, else `v`. -/
def sext (N v : Nat) : Int := if v.testBit (N - 1) then (v : Int) - 2 ^ N else v

/-- `body[i]`. The length check of R162 and the bound check of R164 keep every `i` below the body's length, so that the 0
for an index outside the body is never taken (log entry 9). -/
def byteAt (body : List Byte) (i : Nat) : Byte := body.getD i 0

/-- `I16(p)` (R165). -/
def i16At (body : List Byte) (p : Nat) : Int := sext 16 (le16 (byteAt body p) (byteAt body (p + 1)))

/-- `I24(p)` (R165). -/
def i24At (body : List Byte) (p : Nat) : Int :=
  sext 24 (le24 (byteAt body p) (byteAt body (p + 1)) (byteAt body (p + 2)))

/-- `rec.tag` (R168). -/
def tagOf (body : List Byte) : BitVec 16 := BitVec.ofNat 16 (le16 (byteAt body 1) (byteAt body 2))

/-- `rec.ts` (R168). -/
def tsOf (body : List Byte) : BitVec 32 :=
  BitVec.ofNat 32 (le32 (byteAt body 3) (byteAt body 4) (byteAt body 5) (byteAt body 6))

/-! ### Binary32 scaling (R11, R166) -/

/-- `n / d` to the nearest integer, ties to even. -/
def roundHalfEven (n d : Nat) : Nat :=
  let q := n / d
  let r := n % d
  if d < 2 * r ∨ (2 * r = d ∧ q % 2 = 1) then q + 1 else q

/-- `RNE32` (R11) of the non-negative rational `p / q`, as a bit pattern. Every binary32 value is a multiple of 2^-149. The
unit in the last place of the result is `2^(u - 149)` with `u` the exponent of `p / q` in units of 2^-149 less 23, and at
least 0; the significand is rounded to a whole number of those units; a significand that rounds up to 2^24 carries into the
exponent field; what reaches 2^128 is the infinity's pattern. -/
def rne32 (p q : Nat) : F32 :=
  let u := Nat.log2 (p * 2 ^ 149 / q) - 23
  let n := roundHalfEven (p * 2 ^ 149) (q * 2 ^ u)
  BitVec.ofNat 32 (min (u * 2 ^ 23 + n) 0x7F800000)

/-- The value of a finite non-negative binary32 pattern, in units of 2^-149. -/
def magnitude149 (s : F32) : Nat :=
  let e := (s.extractLsb' 23 8).toNat
  let f := (s.extractLsb' 0 23).toNat
  if e = 0 then f else (2 ^ 23 + f) * 2 ^ (e - 1)

/-- `Phys(raw, S) = RNE32(raw × RNE32(S))` for a scale given by its binary32 pattern (R166). -/
def phys (raw : Int) (s : F32) : F32 :=
  let m := rne32 (raw.natAbs * magnitude149 s) (2 ^ 149)
  if raw < 0 then m ||| 0x80000000 else m

/-- `RNE32(SCALE_ACCEL)` (R5, R166). -/
def scaleAccel : F32 := rne32 Config.scaleAccelNum Config.scaleAccelDen

/-! ### Fields -/

/-- A scaled int16 field at body index `p` (R165, R166). -/
def reading16 (s : F32) (body : List Byte) (p : Nat) : Reading := ⟨i16At body p, phys (i16At body p) s⟩

/-- A scaled int24 field at body index `p` (R165, R166). -/
def reading24 (s : F32) (body : List Byte) (p : Nat) : Reading := ⟨i24At body p, phys (i24At body p) s⟩

/-- Three int16 fields from body index `c` (R171). -/
def vec3At (s : F32) (body : List Byte) (c : Nat) : Vec3 :=
  ⟨reading16 s body c, reading16 s body (c + 2), reading16 s body (c + 4)⟩

/-- A field whose group is not present: raw 0, phys +0.0 (R35, R167). -/
def Reading.absent : Reading := ⟨0, 0⟩

/-- Three axes whose group is not present (R167). -/
def Vec3.absent : Vec3 := ⟨.absent, .absent, .absent⟩

/-- A quaternion whose group is not present (R167). -/
def Quat.absent : Quat := ⟨.absent, .absent, .absent, .absent⟩

/-- `Default()` (R167). -/
def Sample.default : Sample where
  tag := 0
  ts := 0
  present := 0
  acc := .absent
  accg := .absent
  gyr := .absent
  mag := .absent
  temp := .absent
  press := .absent
  height := .absent
  quat := .absent
  eul := .absent

/-! ### Groups (R86) -/

/-- The seven groups a subscribe tag can select (R86). -/
inductive Group where
  | accel
  | accelGravity
  | angularRate
  | magnetic
  | environment
  | quaternion
  | euler
deriving DecidableEq, Repr

/-- A group's place in R86's table, from 0: its tag bit's number. -/
def Group.index : Group → Nat
  | .accel => 0
  | .accelGravity => 1
  | .angularRate => 2
  | .magnetic => 3
  | .environment => 4
  | .quaternion => 5
  | .euler => 6

/-- A group's tag bit as a byte: 0x01, 0x02, 0x04, 0x08, 0x10, 0x20, 0x40 (R86). -/
def Group.bit (g : Group) : Byte := BitVec.ofNat 8 (2 ^ g.index)

/-- `rec.tag & g ≠ 0` (R160). -/
def Group.selected (tag : BitVec 16) (g : Group) : Bool := tag.getLsbD g.index

/-- `Width(g)` (R160). -/
def Group.width : Group → Nat
  | .accel => 6
  | .accelGravity => 6
  | .angularRate => 6
  | .magnetic => 6
  | .environment => 8
  | .quaternion => 8
  | .euler => 6

/-- The fixed order (R163). -/
def Group.order : List Group :=
  [.accel, .accelGravity, .angularRate, .magnetic, .environment, .quaternion, .euler]

/-- Group 0x01, acceleration without gravity (R171). -/
def decodeAccel (body : List Byte) (c : Nat) (rec : Sample) : Sample := { rec with acc := vec3At scaleAccel body c }

/-- Group 0x02, acceleration with gravity (R172). -/
def decodeAccelGravity (body : List Byte) (c : Nat) (rec : Sample) : Sample :=
  { rec with accg := vec3At scaleAccel body c }

/-- Group 0x04, angular rate (R173). -/
def decodeAngularRate (body : List Byte) (c : Nat) (rec : Sample) : Sample :=
  { rec with gyr := vec3At Config.scaleAngleSpeed.bits body c }

/-- Group 0x08, magnetic field (R174). -/
def decodeMagnetic (body : List Byte) (c : Nat) (rec : Sample) : Sample :=
  { rec with mag := vec3At Config.scaleMag.bits body c }

/-- Group 0x10, temperature, pressure and height (R175). -/
def decodeEnvironment (body : List Byte) (c : Nat) (rec : Sample) : Sample :=
  { rec with
    temp := reading16 Config.scaleTemperature.bits body c
    press := reading24 Config.scaleAirPressure.bits body (c + 2)
    height := reading24 Config.scaleHeight.bits body (c + 5) }

/-- Group 0x20, quaternion, in the order w, x, y, z (R176). -/
def decodeQuaternion (body : List Byte) (c : Nat) (rec : Sample) : Sample :=
  let s := Config.scaleQuat.bits
  { rec with quat := ⟨reading16 s body c, reading16 s body (c + 2), reading16 s body (c + 4), reading16 s body (c + 6)⟩ }

/-- Group 0x40, Euler angles (R177). -/
def decodeEuler (body : List Byte) (c : Nat) (rec : Sample) : Sample :=
  { rec with eul := vec3At Config.scaleAngle.bits body c }

/-- `DecodeGroup(g, body, c, rec)` (R160). -/
def decodeGroup : Group → List Byte → Nat → Sample → Sample
  | .accel => decodeAccel
  | .accelGravity => decodeAccelGravity
  | .angularRate => decodeAngularRate
  | .magnetic => decodeMagnetic
  | .environment => decodeEnvironment
  | .quaternion => decodeQuaternion
  | .euler => decodeEuler

/-- `rec.present | g` (R170). -/
def markPresent (g : Group) (rec : Sample) : Sample := { rec with present := rec.present ||| BitVec.ofNat 7 (2 ^ g.index) }

/-- R160's loop over the groups from cursor `c`: the record, and the group and cursor at which decoding was cut short
(R164). -/
def decodeGroups (body : List Byte) : List Group → Nat → Sample → Sample × Option (Group × Nat)
  | [], _, rec => (rec, none)
  | g :: gs, c, rec =>
    if g.selected rec.tag then
      if body.length < c + g.width then (rec, some (g, c))
      else decodeGroups body gs (c + g.width) (markPresent g (decodeGroup g body c rec))
    else decodeGroups body gs c rec

end Sys2Proof.Machine
end

