-- ==== Sys2Proof/Machine/Command.lean ====
section
/-! DEFINITION. The PayloadDecoder: the inbound frame commands (R160 to R179). -/

namespace Sys2Proof.Machine

/-- The record a 0x11 body of at least 7 bytes decodes to, and where decoding was cut short (R160, R163, R164, R168). -/
def decodeReport (body : List Byte) : Sample × Option (Group × Nat) :=
  decodeGroups body Group.order Config.reportPrefix { Sample.default with tag := tagOf body, ts := tsOf body }

/-- DIAG REPORT_TRUNCATED with the group bit and the cursor, where decoding was cut short (R164). -/
def truncationEvents : Option (Group × Nat) → List Event
  | none => []
  | some (g, c) => [.diag .reportTruncated [g.bit, BitVec.ofNat 8 c]]

/-- What a 0x11 body emits (R160, R162, R178). -/
def reportEvents (body : List Byte) : List Event :=
  if body.length < Config.reportPrefix then [.diag .shortReport [BitVec.ofNat 8 body.length]]
  else truncationEvents (decodeReport body).2 ++ [.sample (decodeReport body).1]

/-- CMD_SENSOR_REPORT (R160, R162 to R178). -/
def execCmdSensorReport (rest : List Byte) (s : State) : Outcome :=
  .next (s.emit (reportEvents (Config.cmdReport :: rest)))

/-- CMD_OTHER_INBOUND: DIAG CMD_IGNORED with the command byte, and no sample (R161). -/
def execCmdOtherInbound (c : Byte) (_rest : List Byte) (s : State) : Outcome :=
  .next (s.emit [.diag .cmdIgnored [c]])

/-- `PayloadDecode(body)` (R160): the command is checked first (R263). -/
def payloadDecode (body : List Byte) (s : State) : Outcome :=
  match body with
  | [] => .fault .emptyBody
  | c :: rest => if c = Config.cmdReport then execCmdSensorReport rest s else execCmdOtherInbound c rest s

end Sys2Proof.Machine
end

