-- ==== Sys2Proof/Machine/Feed.lean ====
section
/-! DEFINITION. The FrameDecoder: FEED's dispatch and its transitions (R120 to R134), one definition per state. -/

namespace Sys2Proof.Machine

/-- AwaitStart: a START_MARKER begins a frame attempt, any other byte is skipped (R121). -/
def feedAwaitStart (b : Byte) (s : State) : Outcome :=
  if b = Config.startMarker then keepByte 0 b 0 .address s else .next s

/-- Address: broadcast is rejected (R122), any other address is kept (R123). -/
def feedAddress (b : Byte) (s : State) : Outcome :=
  if b = Config.broadcast then reject .addrBroadcast [] s else keepByte 1 b (s.sum + b) .length s

/-- Length: 0 and lengths over 73 are rejected (R124), any other is kept (R125). -/
def feedLength (b : Byte) (s : State) : Outcome :=
  if b = 0 ∨ Config.maxBody < b.toNat then reject .lenInvalid [b] s else keepByte 2 b (s.sum + b) .data s

/-- Data: every byte is kept; the last one leads to Checksum (R126, R127). `rLen` is `buf[2]` (R28). -/
def feedData (b : Byte) (s : State) : Outcome :=
  match s.bufRead 2 with
  | none => .fault (.bufReadOutside 2)
  | some rLen => keepByte s.idx b (s.sum + b) (if s.idx + 1 < rLen.toNat + 3 then .data else .checksum) s

/-- Checksum: 8-bit equality with the running sum (R128, R129). -/
def feedChecksum (b : Byte) (s : State) : Outcome :=
  if b = s.sum then .next (s.goto .frameEnd) else reject .checksumMismatch [s.sum, b] s

/-- R131: the body leaves as a FRAME, the PayloadDecoder takes it, and the decoder is ready for the next frame. -/
def completeFrame (s : State) : Outcome :=
  match s.bufRead 2 with
  | none => .fault (.bufReadOutside 2)
  | some rLen =>
    match s.bufReadRange 3 rLen.toNat with
    | .error i => .fault (.bufReadOutside i)
    | .ok body => thenAbandon (payloadDecode body (s.emit [.frame (body.headD 0) body]))

/-- End: the terminator is checked before the address (R130, R262); TARGET_ADDR is read in this step (R131, R132, R233).
`rAddr` is `buf[1]` (R28). -/
def feedEnd (b : Byte) (s : State) : Outcome :=
  if b ≠ Config.endMarker then reject .badTerminator [b] s
  else if s.targetAddr = Config.broadcast then completeFrame s
  else
    match s.bufRead 1 with
    | none => .fault (.bufReadOutside 1)
    | some rAddr => if rAddr = s.targetAddr then completeFrame s else reject .addrMismatch [rAddr, s.targetAddr] s

/-- FEED b (R120). -/
def execFeed (b : Byte) (s : State) : Outcome :=
  match s.state with
  | .awaitStart => feedAwaitStart b s
  | .address => feedAddress b s
  | .length => feedLength b s
  | .data => feedData b s
  | .checksum => feedChecksum b s
  | .frameEnd => feedEnd b s

end Sys2Proof.Machine
end

