-- ==== Sys2Proof/Machine/Flags.lean ====
section
/-! DEFINITION. The checksum. The block has no condition flags (R21); the one computed check value it has is the 8-bit
additive checksum of R80, R83 and R203, which the FrameDecoder also runs incrementally (R27). -/

namespace Sys2Proof.Machine

/-- The sum of the bytes modulo 256. -/
def byteSum : List Byte → Byte
  | [] => 0
  | b :: bs => b + byteSum bs

/-- The length byte of a frame whose body is `b` (R80, R83). -/
def lenByte (b : List Byte) : Byte := BitVec.ofNat 8 b.length

/-- `Chk(a, b) = (a + n + b[0] + … + b[n-1]) mod 256` with `n = len(b)` (R203). -/
def checksum (a : Byte) (b : List Byte) : Byte := byteSum (a :: lenByte b :: b)

end Sys2Proof.Machine
end

