-- ==== Sys2Proof/WellFormed.lean ====
section
/-! DEFINITION. Which instructions are well formed: the operands that the encodings of R80, R85 and R92 can carry. -/

namespace Sys2Proof

/-- An inbound body is 1..73 bytes (R80, R81): what follows the command byte is at most 72 bytes. -/
def bodyRestFits (rest : List Byte) : Bool := decide (rest.length + 1 ≤ Config.maxBody)

/-- Well-formed instructions. A SEND takes a body of any length, the wrong ones too (R91, R200, D21). -/
def Instr.wellFormed : Instr → Bool
  | .feed _ => true
  | .reset => true
  | .setTarget _ => true
  | .send _ _ => true
  | .cmdSensorReport rest => bodyRestFits rest
  | .cmdParams _ _ => true
  | .cmdWake _ => true
  | .cmdAutoreport _ => true
  | .cmdOtherInbound c rest => decide (c ≠ Config.cmdReport) && bodyRestFits rest

end Sys2Proof
end

