-- ==== Sys2Proof/Decode.lean ====
section
/-! DEFINITION. The decoder and the encoder. Two encodings meet in the block: the 16-bit host operation word with its body
port (R91, R92) and the bodies of frames, whose first byte is the command (R80 to R88). Decoding is total and rejects by
name. The opcode table's rows and the assembler of R97 and R98 stand here too. -/

namespace Sys2Proof

/-! ### The opcode table -/

/-- A row of spec/opcode_table.json: `bits` wide, and read where `w &&& mask = pattern`. -/
structure OpRow where
  mnemonic : String
  bits : Nat
  pattern : Nat
  mask : Nat
deriving DecidableEq, Repr

/-- The row an instruction belongs to (R85, R92). -/
def Instr.row : Instr → OpRow
  | .feed _ => ⟨"FEED", 16, 0x1000, 0xFF00⟩
  | .reset => ⟨"RESET", 16, 0x2000, 0xFFFF⟩
  | .setTarget _ => ⟨"SET_TARGET", 16, 0x3000, 0xFF00⟩
  | .send _ _ => ⟨"SEND", 16, 0x4000, 0xFF00⟩
  | .cmdSensorReport _ => ⟨"CMD_SENSOR_REPORT", 8, 0x11, 0xFF⟩
  | .cmdParams _ _ => ⟨"CMD_PARAMS", 8, 0x12, 0xFF⟩
  | .cmdWake _ => ⟨"CMD_WAKE", 8, 0x03, 0xFF⟩
  | .cmdAutoreport _ => ⟨"CMD_AUTOREPORT", 8, 0x19, 0xFF⟩
  | .cmdOtherInbound _ _ => ⟨"CMD_OTHER_INBOUND", 8, 0x00, 0x00⟩

/-- The rows of the host operations (R92). -/
def hostRows : List OpRow := [(Instr.feed 0).row, Instr.reset.row, (Instr.setTarget 0).row, (Instr.send 0 []).row]

/-! ### Encoded instructions -/

/-- An instruction as it is laid out: a host word with its body port (R91), an inbound frame's body (R80, R86), or an
outbound body with its destination address (R83, R87, R88). -/
inductive Encoded where
  | host (w : Word) (port : List Byte)
  | inbound (body : List Byte)
  | outbound (a : Byte) (body : List Byte)
deriving DecidableEq, Repr

/-- Why an encoding spells no instruction. -/
inductive DecodeError where
  /-- A host word with op 0x0 or 0x5..0xF (R94). -/
  | reservedOp
  /-- A host word with `z ≠ 0` (R94). -/
  | reservedZ
  /-- A RESET word with `v ≠ 0` (R94). -/
  | resetOperand
  /-- An inbound body of no byte, which R96(b) makes illegal. -/
  | emptyBody
  /-- An inbound body over MAX_BODY bytes, which R96(b) makes illegal. -/
  | bodyTooLong
  /-- An outbound body that is none of R87's and R88's. SEND sends it all the same (R209). -/
  | notOutboundRow
deriving DecidableEq, Repr

/-! ### Host words (R91, R92, R94) -/

/-- `W[15:12]`, the operation code (R91). -/
def opField (w : Word) : BitVec 4 := w.extractLsb' 12 4
/-- `W[11:8]`, which must be 0000 (R91). -/
def zField (w : Word) : BitVec 4 := w.extractLsb' 8 4
/-- `W[7:0]`, the operand byte (R91). -/
def vField (w : Word) : Byte := w.extractLsb' 0 8

/-- The word with the given operation code and operand, and `z = 0` (R91). -/
def hostWord (op : BitVec 4) (v : Byte) : Word := op ++ (0 : BitVec 4) ++ v

/-- The operation a host word and its body port spell (R92); SEND alone takes the body port. -/
def decodeHost (w : Word) (port : List Byte) : Except DecodeError Instr :=
  if zField w ≠ 0 then .error .reservedZ
  else if opField w = 0x1 then .ok (.feed (vField w))
  else if opField w = 0x2 then (if vField w = 0 then .ok .reset else .error .resetOperand)
  else if opField w = 0x3 then .ok (.setTarget (vField w))
  else if opField w = 0x4 then .ok (.send (vField w) port)
  else .error .reservedOp

/-! ### Frame commands (R85) -/

/-- The command an inbound body spells: 0x11, or any other (R160, R161). -/
def decodeInbound : List Byte → Except DecodeError Instr
  | [] => .error .emptyBody
  | c :: rest =>
    if bodyRestFits rest = false then .error .bodyTooLong
    else if c = Config.cmdReport then .ok (.cmdSensorReport rest)
    else .ok (.cmdOtherInbound c rest)

/-- The 11-byte body of the parameter block (R87): its subscribe tag is little-endian. -/
def ParamBlock.body (p : ParamBlock) : List Byte :=
  [Config.cmdParams, p.threshold0, p.threshold1, p.threshold2, p.filterCompass, p.rate, p.filter0, p.filter1, p.filter2,
   p.tag.extractLsb' 0 8, p.tag.extractLsb' 8 8]

/-- The command an outbound body spells, of the three R85 names. -/
def decodeOutbound (a : Byte) : List Byte → Except DecodeError Instr
  | [c] =>
    if c = Config.cmdWake then .ok (.cmdWake a)
    else if c = Config.cmdAutoreport then .ok (.cmdAutoreport a)
    else .error .notOutboundRow
  | [c, t0, t1, t2, fc, r, f0, f1, f2, lo, hi] =>
    if c = Config.cmdParams then .ok (.cmdParams a ⟨t0, t1, t2, fc, r, f0, f1, f2, hi ++ lo⟩)
    else .error .notOutboundRow
  | _ => .error .notOutboundRow

/-- The decoder. -/
def decode : Encoded → Except DecodeError Instr
  | .host w port => decodeHost w port
  | .inbound body => decodeInbound body
  | .outbound a body => decodeOutbound a body

/-- The encoder (R86 to R88, R92). -/
def encode : Instr → Encoded
  | .feed b => .host (hostWord 0x1 b) []
  | .reset => .host (hostWord 0x2 0) []
  | .setTarget v => .host (hostWord 0x3 v) []
  | .send a b => .host (hostWord 0x4 a) b
  | .cmdSensorReport rest => .inbound (Config.cmdReport :: rest)
  | .cmdParams a p => .outbound a p.body
  | .cmdWake a => .outbound a [Config.cmdWake]
  | .cmdAutoreport a => .outbound a [Config.cmdAutoreport]
  | .cmdOtherInbound c rest => .inbound (c :: rest)

/-- The bits the opcode table numbers: the host word, or the command byte. -/
def Encoded.tableBits : Encoded → Nat
  | .host w _ => w.toNat
  | .inbound body => (body.headD 0).toNat
  | .outbound _ body => (body.headD 0).toNat

/-! ### Words of the opcode table -/

/-- The encoding whose leading bits are `w`, as the opcode table numbers them, and whose operands beyond them are zero bytes
(log entry 8): 16 bits are a host word, with one zero byte on the body port; 8 bits are a command byte, followed by the
operand bytes its row names (tag and timestamp for 0x11, ten bytes for 0x12), for device address 0 where it is outbound. -/
def tableEncoding (nbits w : Nat) : Encoded :=
  if nbits ≤ 8 then
    let c : Byte := BitVec.ofNat 8 w
    if c = Config.cmdParams then .outbound 0 (c :: List.replicate 10 0)
    else if c = Config.cmdWake ∨ c = Config.cmdAutoreport then .outbound 0 [c]
    else if c = Config.cmdReport then .inbound (c :: List.replicate 6 0)
    else .inbound [c]
  else .host (BitVec.ofNat 16 w) [0]

/-- What the decoder reads from an instruction whose bits, numbered as the opcode table numbers them, are `w`. -/
def decodeTableWord (nbits w : Nat) : Option Instr := (decode (tableEncoding nbits w)).toOption

/-! ### The assembler (R97, R98) -/

/-- The bytes `FEEDFRAME a, [b…]` feeds: `0x49, a, n, b[0], …, b[n-1], chk, 0x4D` (R98, R80). -/
def frameBytes (a : Byte) (b : List Byte) : List Byte :=
  [Config.startMarker, a, Machine.lenByte b] ++ b ++ [Machine.checksum a b, Config.endMarker]

/-- FEED words for bytes in order (R98's `FEEDS`). -/
def feedOps (o : Machine.TxOutcome) (bs : List Byte) : List Machine.HostOp := bs.map fun b => ⟨hostWord 0x1 b, [], o⟩

/-- The SEND of a body (R97), and what the transport will answer it. -/
def sendOp (o : Machine.TxOutcome) (a : Byte) (b : List Byte) : Machine.HostOp := ⟨hostWord 0x4 a, b, o⟩

/-- The host operations an assembler line stands for (R97, R98). `o` is what the transport answers. -/
def Asm.ops (o : Machine.TxOutcome) : Asm → List Machine.HostOp
  | .feed b => feedOps o [b]
  | .reset => [⟨hostWord 0x2 0, [], o⟩]
  | .setTgt v => [⟨hostWord 0x3 v, [], o⟩]
  | .send a b => [sendOp o a b]
  | .feeds bs => feedOps o bs
  | .feedFrame a b => feedOps o (frameBytes a b)
  | .wake a => [sendOp o a [Config.cmdWake]]
  | .autoReport a => [sendOp o a [Config.cmdAutoreport]]
  | .params a p => [sendOp o a p.body]

/-- A hexadecimal digit. -/
def hexDigit (n : BitVec 4) : Char := ("0123456789abcdef".toList).getD n.toNat '0'

/-- A byte as the assembler writes it, `0xbb` (R97). -/
def hexByte (b : Byte) : String := String.ofList ['0', 'x', hexDigit (b.extractLsb' 4 4), hexDigit (b.extractLsb' 0 4)]

/-- Bytes separated by commas. -/
def hexBytes (bs : List Byte) : String := String.intercalate ", " (bs.map hexByte)

/-- The text of an assembler line (R97, R98). -/
def Asm.text : Asm → String
  | .feed b => "FEED " ++ hexByte b
  | .reset => "RESET"
  | .setTgt v => "SETTGT " ++ hexByte v
  | .send a b => "SEND " ++ hexByte a ++ ", [" ++ hexBytes b ++ "]"
  | .feeds bs => "FEEDS " ++ hexBytes bs
  | .feedFrame a b => "FEEDFRAME " ++ hexByte a ++ ", [" ++ hexBytes b ++ "]"
  | .wake a => "WAKE " ++ hexByte a
  | .autoReport a => "AUTOREPORT " ++ hexByte a
  | .params a p => "PARAMS " ++ hexByte a ++ ", [" ++ hexBytes p.body.tail ++ "]"

end Sys2Proof
end

