-- ==== Sys2Proof/Machine/Send.lean ====
section
/-! DEFINITION. The PacketBuilder: SEND (R200 to R209), and the outbound frame commands, which are SENDs of their bodies
(R85, R98). -/

namespace Sys2Proof.Machine

/-- `Build(a, b)` (R202): preamble, synchronisation pattern, and the frame of R80. -/
def build (a : Byte) (b : List Byte) : List Byte :=
  List.replicate Config.preambleLen 0 ++ Config.sync ++ frameBytes a b

/-- The bytes that reached the wire, and the result, for the transport's answer to a call with `txf` (R204, R205, R206): OK
exactly when all of `txf` was reported written. -/
def txReply (txf : List Byte) : TxOutcome → List Byte × SendResult
  | .written k => (txf.take k, if k = txf.length then .ok else .errTx)
  | .failed j => (txf.take j, .errTx)

/-- The body lengths the builder accepts (R201). -/
def txLengthOk (b : List Byte) : Bool := decide (Config.txMinBody ≤ b.length ∧ b.length ≤ Config.txMaxBody)

/-- SEND's pseudocode (R200): the length check comes before any transmit call (R263), and there is one call at most (R207). -/
def transmit (a : Byte) (b : List Byte) (s : State) : Outcome :=
  if txLengthOk b then
    let reply := txReply (build a b) s.txPort
    .next (s.emit [.tx reply.1, .result reply.2])
  else .next (s.emit [.result .errLen])

/-- SEND a, b (R200). -/
def execSend (a : Byte) (b : List Byte) (s : State) : Outcome := transmit a b s

/-- CMD_PARAMS: `PARAMS a, [p1 … p10]` (R87, R98). -/
def execCmdParams (a : Byte) (p : ParamBlock) (s : State) : Outcome := transmit a p.body s

/-- CMD_WAKE: `WAKE a` (R88, R98). -/
def execCmdWake (a : Byte) (s : State) : Outcome := transmit a [Config.cmdWake] s

/-- CMD_AUTOREPORT: `AUTOREPORT a` (R88, R98). -/
def execCmdAutoreport (a : Byte) (s : State) : Outcome := transmit a [Config.cmdAutoreport] s

end Sys2Proof.Machine
end

