-- ==== Sys2Proof/Machine/Dispatch.lean ====
section
/-! DEFINITION. One arm per instruction. -/

namespace Sys2Proof.Machine

def exec (i : Instr) (s : State) : Host.Outcome State Fault Refusal :=
  match i with
  | .feed b => Sys2Proof.Machine.execFeed b s
  | .reset => Sys2Proof.Machine.execReset s
  | .setTarget v => Sys2Proof.Machine.execSetTarget v s
  | .send a b => Sys2Proof.Machine.execSend a b s
  | .cmdSensorReport rest => Sys2Proof.Machine.execCmdSensorReport rest s
  | .cmdParams a p => Sys2Proof.Machine.execCmdParams a p s
  | .cmdWake a => Sys2Proof.Machine.execCmdWake a s
  | .cmdAutoreport a => Sys2Proof.Machine.execCmdAutoreport a s
  | .cmdOtherInbound c rest => Sys2Proof.Machine.execCmdOtherInbound c rest s

end Sys2Proof.Machine
end

