-- ==== Sys2Proof/Machine/Step.lean ====
section
/-! DEFINITION. One step (R12): the block takes the oldest operation the host has issued and runs it. -/

namespace Sys2Proof.Machine

/-- One step. With no operation issued, nothing happens (R280, log entry 1). A reserved word is refused (R95). -/
def step (s : State) : Host.Outcome State Fault Refusal :=
  match s.host with
  | [] => .next s
  | op :: rest =>
    match decode (.host op.word op.port) with
    | .ok i => exec i (s.take op rest)
    | .error _ => .next (s.take op rest).refuse

/-- `s` with a SEND or any other host operation issued next; the transport will report every byte written. -/
def State.issue (s : State) (w : Word) (port : List Byte) : State :=
  { s with host := ⟨w, port, .written (Config.txOverhead + port.length)⟩ :: s.host }

/-- The address of an inbound frame that `s` will accept. -/
def State.acceptedAddr (s : State) : Byte := if s.targetAddr = Config.broadcast then 0 else s.targetAddr

/-- `s` with the next instruction placed so that the very next step runs it (log entry 8). A host word is issued as it is. An
outbound command is issued as the SEND of its body (R98). An inbound command's body is placed in `buf` as that of a frame
whose END_MARKER alone is missing (R29), and that byte is fed. -/
def State.withFetchWord (s : State) (nbits w : Nat) : State :=
  match tableEncoding nbits w with
  | .host w port => s.issue w port
  | .outbound a body => s.issue (hostWord 0x4 a) body
  | .inbound body =>
    { s.issue (hostWord 0x1 Config.endMarker) [] with
      state := .frameEnd
      buf := s.buf.place 0 ([Config.startMarker, s.acceptedAddr, lenByte body] ++ body)
      idx := 3 + body.length
      sum := checksum s.acceptedAddr body }

end Sys2Proof.Machine
end

