-- ==== Sys2Proof/Safety.lean ====
section
/-! DEFINITION. The terms claims use: runs of operations, the invariant of the FrameDecoder's registers (R29), what a step
leaves unchanged, where a tag's groups lie in a body (R163, R164), and the host's duties as premises (R276). -/

namespace Sys2Proof

open Machine

/-! ### Runs -/

/-- Go on from the next state. -/
def andThen (o : Outcome) (f : State → Outcome) : Outcome :=
  match o with
  | .next s => f s
  | .fault r => .fault r
  | .refused r => .refused r

/-- The instructions one after another (R12). -/
def runAll : List Instr → State → Outcome
  | [], s => .next s
  | i :: is, s => andThen (exec i s) (runAll is)

/-- One FEED per byte, in order (R273). -/
def feedBytes (bs : List Byte) (s : State) : Outcome := runAll (bs.map .feed) s

/-- The bytes of one read after another (R77). -/
def feedChunks : List (List Byte) → State → Outcome
  | [], s => .next s
  | c :: cs, s => andThen (feedBytes c s) (feedChunks cs)

/-! ### What a step leaves unchanged -/

/-- TARGET_ADDR, `refused` and the model's two fields are as before. -/
def ControlKept (s t : State) : Prop :=
  t.targetAddr = s.targetAddr ∧ t.refused = s.refused ∧ t.host = s.host ∧ t.txPort = s.txPort

/-- Every byte of the scratch buffer reads as before. -/
def BufKept (s t : State) : Prop := ∀ a, t.buf.read a = s.buf.read a

/-- Every byte of the scratch buffer but that at index `i` reads as before. -/
def BufKeptBut (i : Nat) (s t : State) : Prop := ∀ a, a ≠ i → t.buf.read a = s.buf.read a

/-- Nothing but the output stream may have changed. -/
def OnlyOutChanged (s t : State) : Prop :=
  t.state = s.state ∧ BufKept s t ∧ t.idx = s.idx ∧ t.sum = s.sum ∧ ControlKept s t

/-- The decoder is ready for the next frame (R134): AwaitStart, idx 0, sum 0; everything but `out` is otherwise as before. -/
def AttemptOver (s t : State) : Prop :=
  t.state = .awaitStart ∧ t.idx = 0 ∧ t.sum = 0 ∧ BufKept s t ∧ ControlKept s t

/-- `es` are the events of the step from `s` to `t`: they stand after the earlier ones (R73). -/
def Emitted (s t : State) (es : List Event) : Prop := t.out = s.out ++ es

/-! ### The invariant of the FrameDecoder's registers (R29) -/

/-- What R29 says of the bytes held, `buf[0..idx)`, and of `sum`, state by state. -/
def AttemptInv (st : Fsm) (sum : Byte) (held : List Byte) : Prop :=
  match st with
  | .awaitStart => held = []
  | .address => held = [Config.startMarker] ∧ sum = 0
  | .length => ∃ a, held = [Config.startMarker, a] ∧ a ≠ Config.broadcast ∧ sum = a
  | .data =>
    ∃ a n body, held = Config.startMarker :: a :: n :: body ∧ a ≠ Config.broadcast ∧ 1 ≤ n.toNat ∧ n.toNat ≤ Config.maxBody ∧
      body.length < n.toNat ∧ sum = byteSum (a :: n :: body)
  | .checksum =>
    ∃ a n body, held = Config.startMarker :: a :: n :: body ∧ a ≠ Config.broadcast ∧ 1 ≤ n.toNat ∧ n.toNat ≤ Config.maxBody ∧
      body.length = n.toNat ∧ sum = byteSum (a :: n :: body)
  | .frameEnd =>
    ∃ a n body, held = Config.startMarker :: a :: n :: body ∧ a ≠ Config.broadcast ∧ 1 ≤ n.toNat ∧ n.toNat ≤ Config.maxBody ∧
      body.length = n.toNat ∧ sum = byteSum (a :: n :: body)

/-- The invariant of R29, with the canonical form of `buf`. -/
def FrameInv (s : State) : Prop :=
  s.buf.wf = true ∧ ∃ held, s.bufReadRange 0 s.idx = .ok held ∧ AttemptInv s.state s.sum held

/-- Two states that differ at most in bytes of `buf` at or above `idx` (R25). -/
def SameBelowIdx (s t : State) : Prop :=
  t = { s with buf := t.buf } ∧ ∀ i, i < s.idx → t.buf.read i = s.buf.read i

/-- Two states with the same FrameDecoder registers, the same buffered bytes and the same target (R77). -/
def SameDecoder (s t : State) : Prop :=
  t.state = s.state ∧ t.idx = s.idx ∧ t.sum = s.sum ∧ t.targetAddr = s.targetAddr ∧
    ∀ i, i < s.idx → t.buf.read i = s.buf.read i

/-! ### Groups in a 0x11 body -/

/-- Where group `g`'s bytes begin in a body with this tag: after the prefix and the selected groups before it (R163). -/
def groupStart (tag : BitVec 16) (g : Group) : Nat :=
  Config.reportPrefix + (((Group.order.takeWhile (· ≠ g)).filter (Group.selected tag)).map Group.width).sum

/-- Group `g` is selected and its bytes lie within a body of `n` bytes (R164). -/
def groupFits (tag : BitVec 16) (n : Nat) (g : Group) : Bool := g.selected tag && decide (groupStart tag g + g.width ≤ n)

/-- `r` is the int16 field at body index `p`, scaled by `scale` (R165, R166). -/
def ReadsInt16 (r : Reading) (scale : F32) (body : List Byte) (p : Nat) : Prop :=
  r.raw = i16At body p ∧ r.phys = phys r.raw scale

/-- `r` is the int24 field at body index `p`, scaled by `scale` (R165, R166). -/
def ReadsInt24 (r : Reading) (scale : F32) (body : List Byte) (p : Nat) : Prop :=
  r.raw = i24At body p ∧ r.phys = phys r.raw scale

/-- A field at its default: raw 0, phys +0.0 (R167). -/
def AtDefault (r : Reading) : Prop := r.raw = 0 ∧ r.phys = 0

/-- `v` holds the three axes of group `g`, if the group was decoded, and its defaults if not (R167, R171 to R174, R177). -/
def AxesOf (g : Group) (scale : F32) (body : List Byte) (v : Vec3) : Prop :=
  if groupFits (tagOf body) body.length g = true then
    ReadsInt16 v.x scale body (groupStart (tagOf body) g) ∧ ReadsInt16 v.y scale body (groupStart (tagOf body) g + 2) ∧
      ReadsInt16 v.z scale body (groupStart (tagOf body) g + 4)
  else AtDefault v.x ∧ AtDefault v.y ∧ AtDefault v.z

/-- The sensor report `0x11 :: rest` completes with the events `ds` and then SAMPLE(rec), and changes nothing else. -/
def Reports (rest : List Byte) (s : State) (ds : List Event) (rec : Sample) : Prop :=
  ∃ t, exec (.cmdSensorReport rest) s = .next t ∧ OnlyOutChanged s t ∧ Emitted s t (ds ++ [.sample rec])

/-! ### The wire -/

/-- The outcomes the environment can draw for a call with `len` bytes (R204). -/
def legalDraw (len : Nat) : TxOutcome → Prop
  | .written k => k ≤ len
  | .failed j => j ≤ len

/-- How many bytes reach the wire under an outcome (R204). -/
def drawnBytes : TxOutcome → Nat
  | .written k => k
  | .failed j => j

/-- `b` with bit `k` flipped (R137). -/
def flipBit (b : Byte) (k : Nat) : Byte := b ^^^ BitVec.ofNat 8 (2 ^ k)

/-- `b'` and `c'` are the body `b` and the checksum byte of its frame, with exactly one bit of one of these bytes flipped
(R137). -/
def OneBitError (a : Byte) (b b' : List Byte) (c' : Byte) : Prop :=
  (∃ i k, i < b.length ∧ k < 8 ∧ b' = b.set i (flipBit (byteAt b i) k) ∧ c' = checksum a b) ∨
  (∃ k, k < 8 ∧ b' = b ∧ c' = flipBit (checksum a b) k)

/-! ### The host's duties (section 6 of 60_exceptions.md): premises, not enforced by the block -/

/-- What the host does, as far as the block can tell: it reopens the transport, or issues an operation (R279). -/
inductive HostAction where
  | reopen
  | op (i : Instr)
deriving DecidableEq, Repr

/-- The operations among the host's actions. -/
def hostInstrs : List HostAction → List Instr
  | [] => []
  | .reopen :: as => hostInstrs as
  | .op i :: as => i :: hostInstrs as

/-- RESET before the first FEED of every new connection (R276). `ready`: this connection's RESET has been issued. -/
def resetsOnReopen (ready : Bool) : List HostAction → Bool
  | [] => true
  | .reopen :: as => resetsOnReopen false as
  | .op .reset :: as => resetsOnReopen true as
  | .op (.feed _) :: as => ready && resetsOnReopen ready as
  | .op _ :: as => resetsOnReopen ready as

end Sys2Proof
end

