-- ==== Sys2Proof/Certificates/Slice0/Obligations.lean ====
section
/-! DEFINITION. The statements for the provers. -/

open Sys2Proof Sys2Proof.Machine

/-! ### Reset (70_reset_and_hazards.md) -/

/-- R290: the state after power-on reset. It says nothing of `buf`, which R290 leaves unspecified. That the target is 255, `idx`
and `sum` are 0 and `out` is empty is the spec's own decision (D5, D29: log entry 10). -/
def Obligations.ResetLeavesPowerOnState : Prop :=
  State.reset.state = .awaitStart ∧ State.reset.idx = 0 ∧ State.reset.sum = 0 ∧ State.reset.targetAddr = 255 ∧
    State.reset.out = [] ∧ State.reset.refused = false

/-- The state after reset meets the invariant of R29. -/
def Obligations.ResetMeetsFrameInvariant : Prop := FrameInv State.reset

/-! ### FEED, transition by transition (40_frame_decoder.md)

Where an attempt ends, three things are no plain rule of the source: the DIAG event is the spec's decision D18, the 0 in `idx`
and `sum` is R134's own choice D27 (log entry 10 for both), and that the cells of `buf` stay is the model's (log entry 4). -/

/-- R121: in AwaitStart 0x49 begins an attempt, and any other byte changes nothing and gives no event (D18). -/
def Obligations.AwaitStartTakesMarkerOnly : Prop :=
  ∀ (b : Byte) (s : State), s.state = .awaitStart →
    (b = 0x49 → ∃ t, exec (.feed b) s = .next t ∧ t.state = .address ∧ t.idx = 1 ∧ t.sum = 0 ∧
      t.buf.read 0 = some b ∧ BufKeptBut 0 s t ∧ ControlKept s t ∧ Emitted s t []) ∧
    (b ≠ 0x49 → exec (.feed b) s = .next s)

/-- R122 and R123: in Address 255 is rejected whatever the target is, and any other byte is kept at index 1 and added.
The rejection's DIAG is D18, its `idx` and `sum` R134's choice D27, its kept `buf` log entry 4. -/
def Obligations.AddressRejectsBroadcastOnly : Prop :=
  ∀ (b : Byte) (s : State), s.state = .address →
    (b = 255 → ∃ t, exec (.feed b) s = .next t ∧ AttemptOver s t ∧ Emitted s t [.diag .addrBroadcast []]) ∧
    (b ≠ 255 → ∃ t, exec (.feed b) s = .next t ∧ t.state = .length ∧ t.idx = 2 ∧ t.sum = s.sum + b ∧
      t.buf.read 1 = some b ∧ BufKeptBut 1 s t ∧ ControlKept s t ∧ Emitted s t [])

/-- R124 and R125: in Length 0 and 74..255 are rejected, 1..73 are kept at index 2 and added. The rejection's DIAG is D18,
its `idx` and `sum` R134's choice D27, its kept `buf` log entry 4. -/
def Obligations.LengthAcceptsOneToSeventyThree : Prop :=
  ∀ (b : Byte) (s : State), s.state = .length →
    (b.toNat = 0 ∨ 73 < b.toNat →
      ∃ t, exec (.feed b) s = .next t ∧ AttemptOver s t ∧ Emitted s t [.diag .lenInvalid [b]]) ∧
    (1 ≤ b.toNat → b.toNat ≤ 73 → ∃ t, exec (.feed b) s = .next t ∧ t.state = .data ∧ t.idx = 3 ∧ t.sum = s.sum + b ∧
      t.buf.read 2 = some b ∧ BufKeptBut 2 s t ∧ ControlKept s t ∧ Emitted s t [])

/-- R126 and R127: in Data every byte is kept at `idx` and added; the last one leads to Checksum. -/
def Obligations.DataKeepsEveryByte : Prop :=
  ∀ (b rLen : Byte) (s : State), s.state = .data → s.bufRead 2 = some rLen → s.idx < 78 →
    ∃ t, exec (.feed b) s = .next t ∧ t.state = (if s.idx + 1 < rLen.toNat + 3 then .data else .checksum) ∧
      t.idx = s.idx + 1 ∧ t.sum = s.sum + b ∧ t.buf.read s.idx = some b ∧ BufKeptBut s.idx s t ∧ ControlKept s t ∧
      Emitted s t []

/-- R128 and R129: in Checksum a byte equal to `sum` leads to End and changes nothing else; any other is rejected.
The rejection's DIAG is D18, its `idx` and `sum` R134's choice D27, its kept `buf` log entry 4. -/
def Obligations.ChecksumByteMustEqualSum : Prop :=
  ∀ (b : Byte) (s : State), s.state = .checksum →
    (b = s.sum → ∃ t, exec (.feed b) s = .next t ∧ t.state = .frameEnd ∧ t.idx = s.idx ∧ t.sum = s.sum ∧ BufKept s t ∧
      ControlKept s t ∧ Emitted s t []) ∧
    (b ≠ s.sum → ∃ t, exec (.feed b) s = .next t ∧ AttemptOver s t ∧ Emitted s t [.diag .checksumMismatch [s.sum, b]])

/-- R130: in End a byte other than 0x4D is rejected, whatever the address. The DIAG is D18, `idx` and `sum` R134's
choice D27, the kept `buf` log entry 4. -/
def Obligations.EndRejectsBadTerminator : Prop :=
  ∀ (b : Byte) (s : State), s.state = .frameEnd → b ≠ 0x4D →
    ∃ t, exec (.feed b) s = .next t ∧ AttemptOver s t ∧ Emitted s t [.diag .badTerminator [b]]

/-- R132: a complete frame whose address is not the target's is dropped. The DIAG is D18, `idx` and `sum` R134's choice D27,
the kept `buf` log entry 4. -/
def Obligations.EndDropsForeignAddress : Prop :=
  ∀ (rAddr : Byte) (s : State), s.state = .frameEnd → s.bufRead 1 = some rAddr → s.targetAddr ≠ 255 →
    rAddr ≠ s.targetAddr →
    ∃ t, exec (.feed 0x4D) s = .next t ∧ AttemptOver s t ∧ Emitted s t [.diag .addrMismatch [rAddr, s.targetAddr]]

/-- R131: a complete frame whose address is accepted leaves as a FRAME event, its body is then run as the inbound command it
decodes to, and the decoder is back in AwaitStart. Its `idx` and `sum` are R134's choice D27, the kept `buf` log entry 4. -/
def Obligations.EndCompletesAcceptedFrame : Prop :=
  ∀ (rLen : Byte) (body : List Byte) (s : State), s.state = .frameEnd → s.bufRead 2 = some rLen →
    1 ≤ rLen.toNat → rLen.toNat ≤ 73 → s.bufReadRange 3 rLen.toNat = .ok body →
    (s.targetAddr = 255 ∨ s.bufRead 1 = some s.targetAddr) →
    ∃ i u t, decode (.inbound body) = .ok i ∧
      exec i { s with out := s.out ++ [.frame (body.headD 0) body] } = .next u ∧
      exec (.feed 0x4D) s = .next t ∧ t.out = u.out ∧ AttemptOver s t

/-- Where FEED would touch `buf` outside the ranges R61 defines, and where a frame would complete with no body byte, which R131
and R160 do not define (they take a body of at least one), it stops with the fault that says so. That it stops there is the
model's choice (DESIGN CHOICE, log entry 5). No run reaches these states (`EveryInstructionCompletes`). -/
def Obligations.FeedStopsOutsideBuffer : Prop :=
  (∀ (b rLen : Byte) (s : State), s.state = .data → s.bufRead 2 = some rLen → 78 ≤ s.idx →
    exec (.feed b) s = .fault (.bufWriteOutside s.idx)) ∧
  (∀ (b : Byte) (s : State), s.state = .data → s.bufRead 2 = none → exec (.feed b) s = .fault (.bufReadOutside 2)) ∧
  (∀ s : State, s.state = .frameEnd → s.targetAddr ≠ 255 → s.bufRead 1 = none →
    exec (.feed 0x4D) s = .fault (.bufReadOutside 1)) ∧
  (∀ s : State, s.state = .frameEnd → (s.targetAddr = 255 ∨ s.bufRead 1 = some s.targetAddr) →
    (s.bufRead 2 = none → exec (.feed 0x4D) s = .fault (.bufReadOutside 2)) ∧
    (s.bufRead 2 = some 0 → exec (.feed 0x4D) s = .fault .emptyBody) ∧
    (∀ (rLen : Byte) (i : Nat), s.bufRead 2 = some rLen → s.bufReadRange 3 rLen.toNat = .error i →
      exec (.feed 0x4D) s = .fault (.bufReadOutside i)))

/-! ### Properties of the FrameDecoder -/

/-- R133: a byte fed outside AwaitStart never begins a frame attempt, not even 0x49. That `idx` and `sum` are
then 0 in AwaitStart is R134's choice D27 (log entry 10). -/
def Obligations.RejectingByteIsNotRescanned : Prop :=
  ∀ (b : Byte) (s t : State), s.state ≠ .awaitStart → exec (.feed b) s = .next t →
    t.state ≠ .address ∧ (t.state = .awaitStart → t.idx = 0 ∧ t.sum = 0)

/-- R253: from every state that meets the invariant of R29 (which the spec derives) each instruction completes its step. So does
the machine's step: that of an operation issued, that of a reserved word, which R253 sets apart as no normal step (R95, D4, log
entry 3), and the idle step (DESIGN CHOICE, log entry 1). -/
def Obligations.EveryInstructionCompletes : Prop :=
  (∀ (i : Instr) (s : State), FrameInv s → ∃ t, exec i s = .next t ∧ t.refused = s.refused) ∧
  (∀ s : State, FrameInv s → ∃ t, step s = .next t)

/-- R29: every step keeps the invariant between the FrameDecoder's registers. -/
def Obligations.StepKeepsFrameInvariant : Prop :=
  ∀ s t : State, FrameInv s → step s = .next t → FrameInv t

/-- Every step keeps the canonical form of `buf`, from every state (the model's own form of R24's buffer). -/
def Obligations.StepKeepsBufferCanonical : Prop :=
  ∀ s t : State, s.buf.wf = true → step s = .next t → t.buf.wf = true

/-- R136: from the step after its START_MARKER on, a frame attempt is over within 77 more bytes, whatever they are, and
`idx` stays at most 76. -/
def Obligations.AttemptIsBounded : Prop :=
  ∀ (s : State) (bs : List Byte), FrameInv s → s.state = .address → bs.length = 77 →
    ∃ k, k ≤ 77 ∧ (∃ t, feedBytes (bs.take k) s = .next t ∧ t.state = .awaitStart) ∧
      ∀ j, j ≤ k → ∃ u, feedBytes (bs.take j) s = .next u ∧ u.idx ≤ 76

/-- R25: bytes of `buf` at or above `idx` cannot be observed, now or later, by any instruction. -/
def Obligations.BufferAboveIdxIsUnobservable : Prop :=
  ∀ (i : Instr) (s t : State), FrameInv s → FrameInv t → SameBelowIdx s t →
    ∃ s' t', exec i s = .next s' ∧ exec i t = .next t' ∧ SameBelowIdx s' t'

/-- R80, R98: the bytes of FEEDFRAME, fed in AwaitStart, give one FRAME with the body and then what its command gives. -/
def Obligations.WellFormedFrameIsReceived : Prop :=
  ∀ (a : Byte) (b : List Byte) (s : State), s.state = .awaitStart → a ≠ 255 → 1 ≤ b.length → b.length ≤ 73 →
    (s.targetAddr = 255 ∨ s.targetAddr = a) →
    ∃ i u t, decode (.inbound b) = .ok i ∧ exec i { s with out := s.out ++ [.frame (b.headD 0) b] } = .next u ∧
      feedBytes (frameBytes a b) s = .next t ∧ t.out = u.out ∧ t.state = .awaitStart ∧ t.idx = 0 ∧ t.sum = 0 ∧
      ControlKept s t

/-- R210: an outbound frame fed back gives exactly one FRAME, with its command and body, then the PayloadDecoder's events,
and leaves the decoder in AwaitStart. -/
def Obligations.OutboundFrameFedBackRoundTrips : Prop :=
  ∀ (a : Byte) (b : List Byte) (s : State), s.state = .awaitStart → a ≠ 255 → 1 ≤ b.length → b.length ≤ 31 →
    (s.targetAddr = a ∨ s.targetAddr = 255) →
    ∃ i u t es, decode (.inbound b) = .ok i ∧ exec i { s with out := s.out ++ [.frame (b.headD 0) b] } = .next u ∧
      feedBytes (build a b) s = .next t ∧ t.out = u.out ∧ t.state = .awaitStart ∧
      Emitted s t (.frame (b.headD 0) b :: es) ∧ ∀ c b', Event.frame c b' ∉ es

/-- R84: the preamble and the synchronisation pattern change nothing in AwaitStart. -/
def Obligations.PreambleAndSyncAreSkipped : Prop :=
  ∀ s : State, s.state = .awaitStart →
    feedBytes (List.replicate 46 (0 : Byte) ++ [0x00, 0xFF, 0x00, 0xFF]) s = .next s

/-- R137: a frame with one bit of one body byte or of the checksum byte flipped is rejected at the Checksum state, and gives
no FRAME and no SAMPLE. -/
def Obligations.SingleBitErrorIsRejected : Prop :=
  ∀ (a c' : Byte) (b b' : List Byte) (s : State), s.state = .awaitStart → a ≠ 255 → 1 ≤ b.length → b.length ≤ 73 →
    OneBitError a b b' c' →
    ∃ t, feedBytes ([0x49, a, lenByte b] ++ b' ++ [c', 0x4D]) s = .next t ∧ t.state = .awaitStart ∧
      Emitted s t [.diag .checksumMismatch [checksum a b', c']]

/-- R77: what a sequence of bytes gives depends on the bytes, the FrameDecoder's registers and TARGET_ADDR alone. Two states that
agree there, whatever `out`, `refused`, `host` and `txPort` hold, complete the same bytes with the same events, however the host
split its reads for each. -/
def Obligations.FeedDependsOnDecoderAndTargetOnly : Prop :=
  ∀ (cs ds : List (List Byte)) (s t : State), cs.flatten = ds.flatten → FrameInv s → SameDecoder s t →
    ∃ s' t' es, feedChunks cs s = .next s' ∧ feedChunks ds t = .next t' ∧ Emitted s s' es ∧ Emitted t t' es ∧
      SameDecoder s' t'

/-- R260: what one FEED step can emit at most. -/
def Obligations.FeedEmitsOneCondition : Prop :=
  ∀ (b : Byte) (s t : State), exec (.feed b) s = .next t →
    ∃ es, Emitted s t es ∧
      (es = [] ∨ (∃ code info, es = [.diag code info]) ∨
        ∃ c body, es = [.frame c body, .diag .cmdIgnored [c]] ∨
          es = [.frame c body, .diag .shortReport [BitVec.ofNat 8 body.length]] ∨
          (∃ rec, es = [.frame c body, .sample rec]) ∨
          ∃ g k rec, es = [.frame c body, .diag .reportTruncated [g, k], .sample rec])

/-- R34, R73: a step only appends to the output stream. -/
def Obligations.OutputIsOnlyAppended : Prop :=
  ∀ s t : State, step s = .next t → s.out <+: t.out

/-- R30: TARGET_ADDR is written by SET_TARGET only. -/
def Obligations.OnlySetTargetWritesTarget : Prop :=
  ∀ (i : Instr) (s t : State), exec i s = .next t → t.targetAddr ≠ s.targetAddr → i = .setTarget t.targetAddr

/-! ### RESET and SET_TARGET (43_control.md) -/

/-- R230: RESET. It says nothing of `buf`, which R230 leaves unspecified (`ControlOperationsLeaveBuffer`, log entry 4). That it
gives no DIAG is the spec's decision D18 (log entry 10). -/
def Obligations.ResetDropsAttempt : Prop :=
  ∀ s : State, ∃ t, exec .reset s = .next t ∧ t.state = .awaitStart ∧ t.idx = 0 ∧ t.sum = 0 ∧ ControlKept s t ∧
    Emitted s t []

/-- R231: RESET is idempotent, and after it every FEED sequence gives the events, and the registers, that the power-on
FrameDecoder gives for the same target. That RESET after RESET changes nothing at all, the cells of `buf` included, is the
model's choice (DESIGN CHOICE, log entry 4). -/
def Obligations.ResetForgetsAttempt : Prop :=
  ∀ (s : State) (bs : List Byte),
    ∃ r t u, exec .reset s = .next r ∧ exec .reset r = .next r ∧ feedBytes bs r = .next t ∧
      feedBytes bs { State.reset with targetAddr := s.targetAddr } = .next u ∧
      t.out = s.out ++ u.out ∧ t.state = u.state ∧ t.idx = u.idx ∧ t.sum = u.sum ∧
      ∀ i, i < u.idx → t.buf.read i = u.buf.read i

/-- R232: SET_TARGET. That it leaves the FSM alone is the spec's decision D6 (log entry 10). -/
def Obligations.SetTargetWritesTargetOnly : Prop :=
  ∀ (v : Byte) (s : State), ∃ t, exec (.setTarget v) s = .next t ∧ t.targetAddr = v ∧ t.state = s.state ∧ t.idx = s.idx ∧
    t.sum = s.sum ∧ t.refused = s.refused ∧ t.host = s.host ∧ t.txPort = s.txPort ∧ BufKept s t ∧ Emitted s t []

/-- The cells of `buf` stay as they are over RESET and SET_TARGET. For RESET this is the model's choice (log entry 4): the
registers R230 writes are `state`, `idx` and `sum`, and it calls the contents of `buf` unspecified. -/
def Obligations.ControlOperationsLeaveBuffer : Prop :=
  (∀ s t : State, exec .reset s = .next t → BufKept s t) ∧
  (∀ (v : Byte) (s t : State), exec (.setTarget v) s = .next t → BufKept s t)

/-- R233: a SET_TARGET between the checksum and the END_MARKER governs the frame. -/
def Obligations.TargetIsReadAtEnd : Prop :=
  ∀ (v rAddr : Byte) (s : State), FrameInv s → s.state = .frameEnd → s.bufRead 1 = some rAddr →
    ∃ u t, exec (.setTarget v) s = .next u ∧ exec (.feed 0x4D) u = .next t ∧
      if v = 255 ∨ rAddr = v then ∃ c body es, Emitted s t (.frame c body :: es)
      else Emitted s t [.diag .addrMismatch [rAddr, v]]

/-- R276, R300: when the host issues RESET before the first FEED of each connection, what the block emits from a reopen on
does not depend on the frame attempt before it. -/
def Obligations.ReopenForgetsEarlierBytes : Prop :=
  ∀ (acts : List HostAction) (s t : State), resetsOnReopen true (.reopen :: acts) = true →
    s.targetAddr = t.targetAddr → s.txPort = t.txPort →
    ∃ s' t' es, runAll (hostInstrs (.reopen :: acts)) s = .next s' ∧ runAll (hostInstrs (.reopen :: acts)) t = .next t' ∧
      Emitted s s' es ∧ Emitted t t' es

/-! ### SEND (42_packet_builder.md) -/

/-- R201: bodies of no byte or over 31 bytes are not transmitted. -/
def Obligations.SendRejectsWrongLength : Prop :=
  ∀ (a : Byte) (b : List Byte) (s : State), b.length = 0 ∨ 31 < b.length →
    ∃ t, exec (.send a b) s = .next t ∧ OnlyOutChanged s t ∧ Emitted s t [.result .errLen]

/-- R205: for a body of 1..31 bytes SEND transmits, and it succeeds exactly when the transport reports all 55 + n bytes
written; then the whole frame is on the wire. -/
def Obligations.SendSucceedsOnFullWriteOnly : Prop :=
  ∀ (a : Byte) (b : List Byte) (s : State), 1 ≤ b.length → b.length ≤ 31 →
    ∃ t bytes r, exec (.send a b) s = .next t ∧ OnlyOutChanged s t ∧ Emitted s t [.tx bytes, .result r] ∧
      (r = .ok ↔ s.txPort = .written (55 + b.length)) ∧ (r = .ok → bytes = build a b)

/-- R206: every other outcome the environment can draw is a failure, and the prefix it names is on the wire. -/
def Obligations.SendFailureLeavesPrefix : Prop :=
  ∀ (a : Byte) (b : List Byte) (o : TxOutcome) (s : State), 1 ≤ b.length → b.length ≤ 31 →
    legalDraw (55 + b.length) o → o ≠ .written (55 + b.length) → s.txPort = o →
    ∃ t bytes, exec (.send a b) s = .next t ∧ OnlyOutChanged s t ∧ Emitted s t [.tx bytes, .result .errTx] ∧
      bytes <+: build a b ∧ bytes.length = drawnBytes o

/-- R74: the PacketBuilder does not touch the FrameDecoder and does not depend on it, and FEED never transmits. -/
def Obligations.DecoderAndBuilderShareNothing : Prop :=
  (∀ (a : Byte) (b : List Byte) (o : TxOutcome), ∃ es, ∀ s : State, s.txPort = o →
    ∃ t, exec (.send a b) s = .next t ∧ OnlyOutChanged s t ∧ Emitted s t es) ∧
  (∀ (b : Byte) (s t : State), exec (.feed b) s = .next t →
    ∃ es, Emitted s t es ∧ (∀ bytes, Event.tx bytes ∉ es) ∧ ∀ r, Event.result r ∉ es)

/-- R64, R202: the outbound frame, byte by byte. -/
def Obligations.OutboundFrameLayout : Prop :=
  ∀ (a : Byte) (b : List Byte), (build a b).length = 55 + b.length ∧
    (∀ i, i < 46 → (build a b)[i]? = some 0) ∧
    (build a b)[46]? = some 0x00 ∧ (build a b)[47]? = some 0xFF ∧ (build a b)[48]? = some 0x00 ∧
    (build a b)[49]? = some 0xFF ∧ (build a b)[50]? = some 0x49 ∧ (build a b)[51]? = some a ∧
    (build a b)[52]? = some (BitVec.ofNat 8 b.length) ∧ (∀ i, i < b.length → (build a b)[53 + i]? = b[i]?) ∧
    (build a b)[53 + b.length]? = some (checksum a b) ∧ (build a b)[54 + b.length]? = some 0x4D

/-- R203: the checksum is the sum of the address, the length and the body bytes, modulo 256. -/
def Obligations.ChecksumIsByteSumMod256 : Prop :=
  ∀ (a : Byte) (b : List Byte), (checksum a b).toNat = (a.toNat + b.length + (b.map BitVec.toNat).sum) % 256

/-- R87, R88, R98: the three outbound commands, each with a transport that writes every byte. The three named threshold bytes
are R87's derivation (log entry 11). -/
def Obligations.OutboundCommandsAreSent : Prop :=
  ∀ (a : Byte) (s : State),
    (s.txPort = .written 56 →
      (∃ t, exec (.cmdWake a) s = .next t ∧ OnlyOutChanged s t ∧
        Emitted s t [.tx (List.replicate 46 (0 : Byte) ++ [0x00, 0xFF, 0x00, 0xFF, 0x49, a, 0x01, 0x03, a + 0x04, 0x4D]),
          .result .ok]) ∧
      (∃ t, exec (.cmdAutoreport a) s = .next t ∧ OnlyOutChanged s t ∧
        Emitted s t [.tx (List.replicate 46 (0 : Byte) ++ [0x00, 0xFF, 0x00, 0xFF, 0x49, a, 0x01, 0x19, a + 0x1A, 0x4D]),
          .result .ok])) ∧
    (s.txPort = .written 66 → ∀ p : ParamBlock, ∃ t, exec (.cmdParams a p) s = .next t ∧ OnlyOutChanged s t ∧
      Emitted s t [.tx (List.replicate 46 (0 : Byte) ++ [0x00, 0xFF, 0x00, 0xFF, 0x49, a, 0x0B, 0x12, p.threshold0, p.threshold1,
        p.threshold2, p.filterCompass, p.rate, p.filter0, p.filter1, p.filter2, p.tag.setWidth 8,
        (p.tag >>> 8).setWidth 8, checksum a p.body, 0x4D]), .result .ok])

/-- R98: an outbound command is the SEND of its body, whatever the transport answers. -/
def Obligations.OutboundCommandsAreSends : Prop :=
  ∀ (a : Byte) (p : ParamBlock) (s : State),
    exec (.cmdWake a) s = exec (.send a [0x03]) s ∧ exec (.cmdAutoreport a) s = exec (.send a [0x19]) s ∧
    ∃ b, encode (.cmdParams a p) = .outbound a b ∧ b.length = 11 ∧ exec (.cmdParams a p) s = exec (.send a b) s

/-- R275: the configure sequence, issued with a transport that writes every byte, takes three steps, sends the three bodies
in order with result OK each, and leaves the decoder as it was. -/
def Obligations.ConfigureSequenceIsSent : Prop :=
  ∀ (a : Byte) (p : ParamBlock) (rest : List HostOp) (s : State),
    s.host = Asm.ops (.written 66) (.params a p) ++ Asm.ops (.written 56) (.wake a) ++
      Asm.ops (.written 56) (.autoReport a) ++ rest →
    ∃ t, Host.Core.run core 3 s = .next t ∧ t.host = rest ∧ t.state = s.state ∧ t.idx = s.idx ∧ t.sum = s.sum ∧
      BufKept s t ∧ t.targetAddr = s.targetAddr ∧ t.refused = s.refused ∧
      Emitted s t [.tx (build a p.body), .result .ok, .tx (build a [0x03]), .result .ok, .tx (build a [0x19]), .result .ok]

/-! ### The inbound commands (41_payload_decoder.md) -/

/-- R161: a command other than 0x11 gives DIAG CMD_IGNORED and no SAMPLE (D16, log entry 10). -/
def Obligations.OtherCommandsAreIgnored : Prop :=
  ∀ (c : Byte) (rest : List Byte) (s : State), c ≠ 0x11 →
    ∃ t, exec (.cmdOtherInbound c rest) s = .next t ∧ OnlyOutChanged s t ∧ Emitted s t [.diag .cmdIgnored [c]]

/-- R162: a 0x11 body of fewer than 7 bytes gives DIAG SHORT_REPORT and no SAMPLE; one of exactly 7 bytes gives a sample
with no groups, whatever its tag (D17, D9, log entry 10). -/
def Obligations.ShortReportGivesNoSample : Prop :=
  ∀ (rest : List Byte) (s : State),
    (rest.length + 1 < 7 → ∃ t, exec (.cmdSensorReport rest) s = .next t ∧ OnlyOutChanged s t ∧
      Emitted s t [.diag .shortReport [BitVec.ofNat 8 (rest.length + 1)]]) ∧
    (rest.length + 1 = 7 → ∃ ds rec, Reports rest s ds rec ∧ rec.present = 0)

/-- R168, R178: a report of 7 bytes or more gives exactly one SAMPLE, with at most one DIAG before it, REPORT_TRUNCATED. Its
tag, with all 16 bits, and its timestamp are little-endian, the timestamp unsigned (D13, log entry 10). -/
def Obligations.ReportGivesOneSample : Prop :=
  ∀ (g0 g1 t0 t1 t2 t3 : Byte) (groups : List Byte) (s : State),
    ∃ ds rec, Reports (g0 :: g1 :: t0 :: t1 :: t2 :: t3 :: groups) s ds rec ∧
      (ds = [] ∨ ∃ g c, ds = [.diag .reportTruncated [g, c]]) ∧ rec.tag = g1 ++ g0 ∧ rec.ts = t3 ++ t2 ++ t1 ++ t0

/-- R163, R164, R170: a group is in `present` exactly when it is selected and lies within the body, and `present` is the
tag's low seven bits exactly when nothing was truncated (D8, D9, log entry 10). -/
def Obligations.PresentMaskIsExact : Prop :=
  ∀ (rest : List Byte) (s : State), 7 ≤ rest.length + 1 →
    ∃ ds rec, Reports rest s ds rec ∧
      (∀ g : Group, rec.present.getLsbD g.index = groupFits (tagOf (0x11 :: rest)) (rest.length + 1) g) ∧
      (rec.present = rec.tag.setWidth 7 ↔ ds = [])

/-- R164: DIAG REPORT_TRUNCATED names the first selected group that does not fit, and the cursor there; there is none when
every selected group fits (D9, D18, log entry 10). -/
def Obligations.TruncationNamesFirstGroup : Prop :=
  ∀ (rest : List Byte) (s : State), 7 ≤ rest.length + 1 →
    ∃ ds rec, Reports rest s ds rec ∧
      ((∀ g : Group, g.selected (tagOf (0x11 :: rest)) = true →
          groupFits (tagOf (0x11 :: rest)) (rest.length + 1) g = true) → ds = []) ∧
      (∀ g : Group, g.selected (tagOf (0x11 :: rest)) = true →
        groupFits (tagOf (0x11 :: rest)) (rest.length + 1) g = false →
        (∀ h : Group, h.index < g.index → h.selected (tagOf (0x11 :: rest)) = true →
          groupFits (tagOf (0x11 :: rest)) (rest.length + 1) h = true) →
        ds = [.diag .reportTruncated [g.bit, BitVec.ofNat 8 (groupStart (tagOf (0x11 :: rest)) g)]])

/-- R171 to R174, R177, R167: the five groups of three axes, each read at its place in the body if it was decoded, at its
defaults if not (D9, D12, log entry 10), each scaled in binary32 (D10, PRESUMED, log entry 7); and the corner values of R171. -/
def Obligations.AxisGroupsAreDecoded : Prop :=
  (phys (-32768) scaleAccel = 0xC31CCCCD ∧ phys 32767 scaleAccel = 0x431CCB93) ∧
  ∀ (rest : List Byte) (s : State), 7 ≤ rest.length + 1 →
    ∃ ds rec, Reports rest s ds rec ∧
      AxesOf .accel scaleAccel (0x11 :: rest) rec.acc ∧
      AxesOf .accelGravity scaleAccel (0x11 :: rest) rec.accg ∧
      AxesOf .angularRate Config.scaleAngleSpeed.bits (0x11 :: rest) rec.gyr ∧
      AxesOf .magnetic Config.scaleMag.bits (0x11 :: rest) rec.mag ∧
      AxesOf .euler Config.scaleAngle.bits (0x11 :: rest) rec.eul

/-- R175, R167: temperature, pressure and height, whole or not at all (D9, D12, log entry 10), each scaled in
binary32 (D10, PRESUMED, log entry 7). -/
def Obligations.EnvironmentGroupIsDecoded : Prop :=
  ∀ (rest : List Byte) (s : State), 7 ≤ rest.length + 1 →
    ∃ ds rec, Reports rest s ds rec ∧
      if groupFits (tagOf (0x11 :: rest)) (rest.length + 1) .environment = true then
        ReadsInt16 rec.temp Config.scaleTemperature.bits (0x11 :: rest) (groupStart (tagOf (0x11 :: rest)) .environment) ∧
        ReadsInt24 rec.press Config.scaleAirPressure.bits (0x11 :: rest)
          (groupStart (tagOf (0x11 :: rest)) .environment + 2) ∧
        ReadsInt24 rec.height Config.scaleHeight.bits (0x11 :: rest) (groupStart (tagOf (0x11 :: rest)) .environment + 5)
      else AtDefault rec.temp ∧ AtDefault rec.press ∧ AtDefault rec.height

/-- R176, R167: the quaternion, in the order w, x, y, z (D9, D12, log entry 10), scaled in binary32 (D10, PRESUMED,
log entry 7). -/
def Obligations.QuaternionGroupIsDecoded : Prop :=
  ∀ (rest : List Byte) (s : State), 7 ≤ rest.length + 1 →
    ∃ ds rec, Reports rest s ds rec ∧
      if groupFits (tagOf (0x11 :: rest)) (rest.length + 1) .quaternion = true then
        ReadsInt16 rec.quat.w Config.scaleQuat.bits (0x11 :: rest) (groupStart (tagOf (0x11 :: rest)) .quaternion) ∧
        ReadsInt16 rec.quat.x Config.scaleQuat.bits (0x11 :: rest) (groupStart (tagOf (0x11 :: rest)) .quaternion + 2) ∧
        ReadsInt16 rec.quat.y Config.scaleQuat.bits (0x11 :: rest) (groupStart (tagOf (0x11 :: rest)) .quaternion + 4) ∧
        ReadsInt16 rec.quat.z Config.scaleQuat.bits (0x11 :: rest) (groupStart (tagOf (0x11 :: rest)) .quaternion + 6)
      else AtDefault rec.quat.w ∧ AtDefault rec.quat.x ∧ AtDefault rec.quat.y ∧ AtDefault rec.quat.z

/-- R169: tag bits 0x0080 to 0x8000 change nothing but the reported tag, and body bytes after the last selected group change
nothing (D14, D15, log entry 10). -/
def Obligations.HighTagBitsAndTrailingBytesIgnored : Prop :=
  (∀ (g0 g1 g0' g1' : Byte) (more : List Byte) (s : State) (ds : List Event) (rec : Sample), 4 ≤ more.length →
    g0 &&& 0x7F = g0' &&& 0x7F → Reports (g0 :: g1 :: more) s ds rec →
    Reports (g0' :: g1' :: more) s ds { rec with tag := g1' ++ g0' }) ∧
  (∀ (rest extra : List Byte) (s : State) (rec : Sample), Reports rest s [] rec → Reports (rest ++ extra) s [] rec)

/-- R165: the raw fields are the two's complement readings of the little-endian bytes, whatever these are. -/
def Obligations.RawFieldsAreTwosComplement : Prop :=
  ∀ (body : List Byte) (p : Nat),
    i16At body p = (byteAt body (p + 1) ++ byteAt body p : BitVec 16).toInt ∧
    i24At body p = (byteAt body (p + 2) ++ byteAt body (p + 1) ++ byteAt body p : BitVec 24).toInt ∧
    -32768 ≤ i16At body p ∧ i16At body p ≤ 32767 ∧ -8388608 ≤ i24At body p ∧ i24At body p ≤ 8388607

/-- R166: for every scale the spec admits, the product is finite and never a NaN, has the sign of the raw value, and is +0.0
for raw 0 and for no other (D10, D11, log entries 6, 7). -/
def Obligations.PhysIsFiniteAndSigned : Prop :=
  ∀ (raw : Int) (k : Config.Scale), raw.natAbs ≤ 2 ^ 23 →
    (phys raw k.bits).extractLsb' 23 8 ≠ 255 ∧ (phys raw k.bits).msb = decide (raw < 0) ∧
    (phys raw k.bits = 0 ↔ raw = 0)

/-- R11, R166: the physical value is the binary32 value nearest the exact product, ties to even. Magnitudes are in units of
2^-149, of which every binary32 value and every product is a whole number (D10, log entry 7). -/
def Obligations.PhysIsNearestTiesToEven : Prop :=
  ∀ (raw : Int) (k : Config.Scale) (y : F32), raw.natAbs ≤ 2 ^ 23 → y.toNat < 0x7F800000 →
    let exact : Int := raw.natAbs * magnitude149 k.bits
    let result : F32 := phys raw k.bits &&& 0x7FFFFFFF
    (exact - magnitude149 result).natAbs ≤ (exact - magnitude149 y).natAbs ∧
    ((exact - magnitude149 result).natAbs = (exact - magnitude149 y).natAbs → y ≠ result → result.getLsbD 0 = false)

/-! ### Encodings and the step (30_encoding.md) -/

/-- Decoding what the encoder gives for a well-formed instruction gives the instruction, for every operand. -/
def Obligations.DecodeInvertsEncode : Prop :=
  ∀ i : Instr, i.wellFormed = true → decode (encode i) = .ok i

/-- R91, R92: a host word that spells an operation is the word the encoder gives for it, so no word has two spellings. -/
def Obligations.HostWordsHaveOneMeaning : Prop :=
  ∀ (w : Word) (port : List Byte) (i : Instr), decode (.host w port) = .ok i →
    encode i = .host w port ∨ encode i = .host w [] ∧ ∀ a b, i ≠ .send a b

/-- R94: the words that spell no operation are exactly the reserved ones (the spec's decision D4). -/
def Obligations.ReservedWordsAreRejected : Prop :=
  ∀ (w : Word) (port : List Byte), (∃ e, decode (.host w port) = .error e) ↔
    (w.toNat / 4096 = 0 ∨ 5 ≤ w.toNat / 4096 ∨ w.toNat / 256 % 16 ≠ 0 ∨ w.toNat / 4096 = 2 ∧ w.toNat % 256 ≠ 0)

/-- R95: the step of a reserved word changes no register and emits no event; it sets `refused`. The word is taken from the
host (log entry 1). The refusal is the spec's decision D4 (log entry 3). -/
def Obligations.ReservedWordOnlyMarksRefused : Prop :=
  ∀ (op : HostOp) (rest : List HostOp) (e : DecodeError) (s : State), s.host = op :: rest →
    decode (.host op.word op.port) = .error e →
    ∃ t, step s = .next t ∧ t.refused = true ∧ t.state = s.state ∧ BufKept s t ∧ t.idx = s.idx ∧ t.sum = s.sum ∧
      t.targetAddr = s.targetAddr ∧ Emitted s t [] ∧ t.host = rest

/-- R36: `refused` is never cleared by a step, and only a reserved word sets it. -/
def Obligations.RefusedIsNeverCleared : Prop :=
  ∀ s t : State, step s = .next t →
    (s.refused = true → t.refused = true) ∧
    (s.refused = false → t.refused = true →
      ∃ op rest e, s.host = op :: rest ∧ decode (.host op.word op.port) = .error e)

/-- R12: the step takes the oldest operation issued and runs the instruction its word and body port decode to; the
operation's transport answer stands on `txPort` meanwhile (the model's fields, log entries 1 and 2). -/
def Obligations.StepRunsDecodedOperation : Prop :=
  ∀ (op : HostOp) (rest : List HostOp) (i : Instr) (s : State), s.host = op :: rest →
    decode (.host op.word op.port) = .ok i →
    step s = exec i { s with host := rest, txPort := op.answer }

/-- R280: with no operation issued a step changes nothing (the model's choice, log entry 1). -/
def Obligations.StepWithoutOperationChangesNothing : Prop :=
  ∀ s : State, s.host = [] → step s = .next s

/-- R92, R97, R85: words and command bytes of each row, written out. -/
def Obligations.WrittenOutWordsDecode : Prop :=
  decode (.host 0x1049 []) = .ok (.feed 0x49) ∧ decode (.host 0x2000 []) = .ok .reset ∧
  decode (.host 0x30FF []) = .ok (.setTarget 0xFF) ∧ decode (.host 0x4001 [0x03]) = .ok (.send 0x01 [0x03]) ∧
  decode (.inbound [0x11, 0x02, 0x00]) = .ok (.cmdSensorReport [0x02, 0x00]) ∧
  decode (.inbound [0x12, 0x00]) = .ok (.cmdOtherInbound 0x12 [0x00]) ∧
  decode (.outbound 0x01 [0x03]) = .ok (.cmdWake 0x01) ∧ decode (.outbound 0x01 [0x19]) = .ok (.cmdAutoreport 0x01) ∧
  decode (.outbound 0x01 [0x12, 1, 2, 3, 4, 5, 6, 7, 8, 0x34, 0x12]) = .ok (.cmdParams 0x01 ⟨1, 2, 3, 4, 5, 6, 7, 8, 0x1234⟩)
end

