-- ==== Sys2Proof/Laws/Memory.lean ====
section
/-! SUPPORT. The laws of the scratch buffer: a read after a write, what a write leaves alone, and that every operation keeps
the canonical form. -/

namespace Sys2Proof.Machine

theorem Memory.read_write_same (m : Memory) (a : Nat) (v : Byte) : (m.write a v).read a = some v := by
  induction m with
  | nil => simp [Memory.write, Memory.read]
  | cons c m ih =>
    by_cases h : c.1 = a
    · simp [Memory.write, Memory.read, h]
    · by_cases h' : a < c.1 <;> simp [Memory.write, Memory.read, h, h', ih]

theorem Memory.read_write_other (m : Memory) {a b : Nat} (v : Byte) (h : b ≠ a) : (m.write a v).read b = m.read b := by
  induction m with
  | nil => simp [Memory.write, Memory.read, h.symm]
  | cons c m ih =>
    by_cases h1 : c.1 = a
    · simp [Memory.write, Memory.read, h1, h.symm]
    · by_cases h' : a < c.1 <;> simp [Memory.write, Memory.read, h1, h', ih, h.symm]

theorem Memory.read_write (m : Memory) (a b : Nat) (v : Byte) :
    (m.write a v).read b = if b = a then some v else m.read b := by
  split
  next h => subst h; exact Memory.read_write_same m b v
  next h => exact Memory.read_write_other m v h

theorem Memory.risingFrom_write {m : Memory} {lo a : Nat} (v : Byte) (h : Memory.risingFrom lo m = true) (ha : lo ≤ a) :
    Memory.risingFrom lo (m.write a v) = true := by
  induction m generalizing lo with
  | nil => simp [Memory.write, Memory.risingFrom, ha]
  | cons c m ih =>
    simp only [Memory.risingFrom, Bool.and_eq_true, decide_eq_true_eq] at h
    unfold Memory.write
    split
    next e => subst e; simpa [Memory.risingFrom] using h
    next e =>
      split
      next l => simp [Memory.risingFrom, ha, h.2]; omega
      next l => simp [Memory.risingFrom, h.1, ih h.2 (by omega)]

theorem Memory.mem_write {m : Memory} {a : Nat} {v : Byte} {c : Host.Cell} (h : c ∈ m.write a v) : c = (a, v) ∨ c ∈ m := by
  induction m with
  | nil => simpa [Memory.write] using h
  | cons d m ih =>
    unfold Memory.write at h
    split at h
    · rcases List.mem_cons.mp h with h | h
      · exact .inl h
      · exact .inr (List.mem_cons_of_mem _ h)
    · split at h
      · rcases List.mem_cons.mp h with h | h
        · exact .inl h
        · exact .inr h
      · rcases List.mem_cons.mp h with h | h
        · exact .inr (h ▸ List.mem_cons_self)
        · exact (ih h).imp id (List.mem_cons_of_mem _)

/-- A write inside the buffer keeps the canonical form. -/
theorem Memory.wf_write {m : Memory} {a : Nat} (v : Byte) (h : m.wf = true) (ha : a < Config.bufCap) :
    (m.write a v).wf = true := by
  simp only [Memory.wf, Bool.and_eq_true, List.all_eq_true] at h ⊢
  refine ⟨Memory.risingFrom_write v h.1 (Nat.zero_le _), fun c hc => ?_⟩
  rcases Memory.mem_write hc with rfl | hc
  · simp [ha, Memory.unlisted]
  · exact h.2 c hc

/-- Placing bytes inside the buffer keeps the canonical form. -/
theorem Memory.wf_place {m : Memory} {i : Nat} {bs : List Byte} (h : m.wf = true) (hi : i + bs.length ≤ Config.bufCap) :
    (m.place i bs).wf = true := by
  induction bs generalizing m i with
  | nil => exact h
  | cons b bs ih =>
    simp only [List.length_cons] at hi
    exact ih (Memory.wf_write b h (by omega)) (by omega)

/-- The buffer after reset has the canonical form. -/
theorem Memory.wf_reset : State.reset.buf.wf = true := rfl

end Sys2Proof.Machine
end

