-- ==== Sys2Proof/Laws/State.lean ====
section
/-! SUPPORT. One lemma per field per update of the state, each true by rfl, so that no later proof unfolds a record update. -/

namespace Sys2Proof.Machine

variable (s : State)

/-! ### emit: `State.emit` -/

@[simp] theorem State.emit_state (es : List Event) : (s.emit es).state = s.state := rfl
@[simp] theorem State.emit_buf (es : List Event) : (s.emit es).buf = s.buf := rfl
@[simp] theorem State.emit_idx (es : List Event) : (s.emit es).idx = s.idx := rfl
@[simp] theorem State.emit_sum (es : List Event) : (s.emit es).sum = s.sum := rfl
@[simp] theorem State.emit_targetAddr (es : List Event) : (s.emit es).targetAddr = s.targetAddr := rfl
@[simp] theorem State.emit_out (es : List Event) : (s.emit es).out = s.out ++ es := rfl
@[simp] theorem State.emit_refused (es : List Event) : (s.emit es).refused = s.refused := rfl
@[simp] theorem State.emit_host (es : List Event) : (s.emit es).host = s.host := rfl
@[simp] theorem State.emit_txPort (es : List Event) : (s.emit es).txPort = s.txPort := rfl

/-! ### Abandon (R134): `State.abandon` -/

@[simp] theorem State.abandon_state : (s.abandon).state = .awaitStart := rfl
@[simp] theorem State.abandon_buf : (s.abandon).buf = s.buf := rfl
@[simp] theorem State.abandon_idx : (s.abandon).idx = 0 := rfl
@[simp] theorem State.abandon_sum : (s.abandon).sum = 0 := rfl
@[simp] theorem State.abandon_targetAddr : (s.abandon).targetAddr = s.targetAddr := rfl
@[simp] theorem State.abandon_out : (s.abandon).out = s.out := rfl
@[simp] theorem State.abandon_refused : (s.abandon).refused = s.refused := rfl
@[simp] theorem State.abandon_host : (s.abandon).host = s.host := rfl
@[simp] theorem State.abandon_txPort : (s.abandon).txPort = s.txPort := rfl

/-! ### Keeping a byte: `State.keep` -/

@[simp] theorem State.keep_state (i : Nat) (b m : Byte) (st : Fsm) : (s.keep i b m st).state = st := rfl
@[simp] theorem State.keep_buf (i : Nat) (b m : Byte) (st : Fsm) : (s.keep i b m st).buf = s.buf.write i b := rfl
@[simp] theorem State.keep_idx (i : Nat) (b m : Byte) (st : Fsm) : (s.keep i b m st).idx = i + 1 := rfl
@[simp] theorem State.keep_sum (i : Nat) (b m : Byte) (st : Fsm) : (s.keep i b m st).sum = m := rfl
@[simp] theorem State.keep_targetAddr (i : Nat) (b m : Byte) (st : Fsm) : (s.keep i b m st).targetAddr = s.targetAddr := rfl
@[simp] theorem State.keep_out (i : Nat) (b m : Byte) (st : Fsm) : (s.keep i b m st).out = s.out := rfl
@[simp] theorem State.keep_refused (i : Nat) (b m : Byte) (st : Fsm) : (s.keep i b m st).refused = s.refused := rfl
@[simp] theorem State.keep_host (i : Nat) (b m : Byte) (st : Fsm) : (s.keep i b m st).host = s.host := rfl
@[simp] theorem State.keep_txPort (i : Nat) (b m : Byte) (st : Fsm) : (s.keep i b m st).txPort = s.txPort := rfl

/-! ### Changing the FSM state: `State.goto` -/

@[simp] theorem State.goto_state (st : Fsm) : (s.goto st).state = st := rfl
@[simp] theorem State.goto_buf (st : Fsm) : (s.goto st).buf = s.buf := rfl
@[simp] theorem State.goto_idx (st : Fsm) : (s.goto st).idx = s.idx := rfl
@[simp] theorem State.goto_sum (st : Fsm) : (s.goto st).sum = s.sum := rfl
@[simp] theorem State.goto_targetAddr (st : Fsm) : (s.goto st).targetAddr = s.targetAddr := rfl
@[simp] theorem State.goto_out (st : Fsm) : (s.goto st).out = s.out := rfl
@[simp] theorem State.goto_refused (st : Fsm) : (s.goto st).refused = s.refused := rfl
@[simp] theorem State.goto_host (st : Fsm) : (s.goto st).host = s.host := rfl
@[simp] theorem State.goto_txPort (st : Fsm) : (s.goto st).txPort = s.txPort := rfl

/-! ### Writing TARGET_ADDR (R232): `State.setTarget` -/

@[simp] theorem State.setTarget_state (v : Byte) : (s.setTarget v).state = s.state := rfl
@[simp] theorem State.setTarget_buf (v : Byte) : (s.setTarget v).buf = s.buf := rfl
@[simp] theorem State.setTarget_idx (v : Byte) : (s.setTarget v).idx = s.idx := rfl
@[simp] theorem State.setTarget_sum (v : Byte) : (s.setTarget v).sum = s.sum := rfl
@[simp] theorem State.setTarget_targetAddr (v : Byte) : (s.setTarget v).targetAddr = v := rfl
@[simp] theorem State.setTarget_out (v : Byte) : (s.setTarget v).out = s.out := rfl
@[simp] theorem State.setTarget_refused (v : Byte) : (s.setTarget v).refused = s.refused := rfl
@[simp] theorem State.setTarget_host (v : Byte) : (s.setTarget v).host = s.host := rfl
@[simp] theorem State.setTarget_txPort (v : Byte) : (s.setTarget v).txPort = s.txPort := rfl

/-! ### Marking a refusal (R95): `State.refuse` -/

@[simp] theorem State.refuse_state : (s.refuse).state = s.state := rfl
@[simp] theorem State.refuse_buf : (s.refuse).buf = s.buf := rfl
@[simp] theorem State.refuse_idx : (s.refuse).idx = s.idx := rfl
@[simp] theorem State.refuse_sum : (s.refuse).sum = s.sum := rfl
@[simp] theorem State.refuse_targetAddr : (s.refuse).targetAddr = s.targetAddr := rfl
@[simp] theorem State.refuse_out : (s.refuse).out = s.out := rfl
@[simp] theorem State.refuse_refused : (s.refuse).refused = true := rfl
@[simp] theorem State.refuse_host : (s.refuse).host = s.host := rfl
@[simp] theorem State.refuse_txPort : (s.refuse).txPort = s.txPort := rfl

/-! ### Taking an operation: `State.take` -/

@[simp] theorem State.take_state (op : HostOp) (rest : List HostOp) : (s.take op rest).state = s.state := rfl
@[simp] theorem State.take_buf (op : HostOp) (rest : List HostOp) : (s.take op rest).buf = s.buf := rfl
@[simp] theorem State.take_idx (op : HostOp) (rest : List HostOp) : (s.take op rest).idx = s.idx := rfl
@[simp] theorem State.take_sum (op : HostOp) (rest : List HostOp) : (s.take op rest).sum = s.sum := rfl
@[simp] theorem State.take_targetAddr (op : HostOp) (rest : List HostOp) : (s.take op rest).targetAddr = s.targetAddr := rfl
@[simp] theorem State.take_out (op : HostOp) (rest : List HostOp) : (s.take op rest).out = s.out := rfl
@[simp] theorem State.take_refused (op : HostOp) (rest : List HostOp) : (s.take op rest).refused = s.refused := rfl
@[simp] theorem State.take_host (op : HostOp) (rest : List HostOp) : (s.take op rest).host = rest := rfl
@[simp] theorem State.take_txPort (op : HostOp) (rest : List HostOp) : (s.take op rest).txPort = op.answer := rfl

end Sys2Proof.Machine
end

