-- ==== Sys2Proof/Laws/Ops.lean ====
section
/-! SUPPORT. What each shared operation can answer, said once. -/

namespace Sys2Proof.Machine

/-! ### The buffer's reads -/

@[simp] theorem State.bufRead_emit (s : State) (es : List Event) (i : Nat) : (s.emit es).bufRead i = s.bufRead i := rfl

@[simp] theorem State.bufRead_goto (s : State) (st : Fsm) (i : Nat) : (s.goto st).bufRead i = s.bufRead i := rfl

@[simp] theorem State.bufRead_setTarget (s : State) (v : Byte) (i : Nat) : (s.setTarget v).bufRead i = s.bufRead i := rfl

@[simp] theorem State.bufRead_take (s : State) (op : HostOp) (rest : List HostOp) (i : Nat) :
    (s.take op rest).bufRead i = s.bufRead i := rfl

/-- A read below `idx` reads the cell. -/
theorem State.bufRead_of_lt {s : State} {i : Nat} (h : i < s.idx) : s.bufRead i = s.buf.read i := by
  simp [State.bufRead, h]

theorem State.bufRead_eq_some {s : State} {i : Nat} {b : Byte} :
    s.bufRead i = some b ↔ i < s.idx ∧ s.buf.read i = some b := by
  unfold State.bufRead
  split <;> simp_all

/-- A range is read when each of its bytes is, and it holds them in order. -/
theorem State.bufReadRange_eq_ok {s : State} {i n : Nat} {bs : List Byte} :
    s.bufReadRange i n = .ok bs ↔ bs.length = n ∧ ∀ k (h : k < bs.length), s.bufRead (i + k) = some bs[k] := by
  induction n generalizing i bs with
  | zero =>
    cases bs with
    | nil => simp [State.bufReadRange]
    | cons b bs => simp [State.bufReadRange]
  | succ n ih =>
    rw [State.bufReadRange]
    cases hb : s.bufRead i with
    | none =>
      simp only [reduceCtorEq, false_iff, not_and]
      intro hl h
      have := h 0 (by omega)
      simp [hb] at this
    | some b =>
      cases bs with
      | nil => cases h : s.bufReadRange (i + 1) n <;> simp [Except.map]
      | cons c bs =>
        have key : (s.bufReadRange (i + 1) n).map (b :: ·) = .ok (c :: bs) ↔ b = c ∧ s.bufReadRange (i + 1) n = .ok bs := by
          cases h : s.bufReadRange (i + 1) n <;> simp [Except.map]
        simp only [key, ih, List.length_cons, Nat.add_right_cancel_iff]
        constructor
        · rintro ⟨rfl, hl, h⟩
          refine ⟨hl, fun k hk => ?_⟩
          cases k with
          | zero => simpa using hb
          | succ k => simpa [Nat.add_assoc, Nat.add_comm 1 k] using h k (by omega)
        · rintro ⟨hl, h⟩
          have h0 := h 0 (by omega)
          simp only [Nat.add_zero, hb, Option.some.injEq, List.getElem_cons_zero] at h0
          refine ⟨h0, hl, fun k hk => ?_⟩
          have := h (k + 1) (by omega)
          simpa [Nat.add_assoc, Nat.add_comm 1 k] using this

/-- The buffer's reads depend on `buf` and `idx` alone. -/
theorem State.bufReadRange_congr {s t : State} (hb : t.buf = s.buf) (hi : t.idx = s.idx) (i n : Nat) :
    t.bufReadRange i n = s.bufReadRange i n := by
  induction n generalizing i with
  | zero => rfl
  | succ n ih => simp only [State.bufReadRange, State.bufRead, hb, hi, ih]

/-! ### Keeping and rejecting a byte -/

theorem keepByte_next {i : Nat} (b m : Byte) (st : Fsm) (s : State) (h : i < Config.bufCap) :
    keepByte i b m st s = .next (s.keep i b m st) := by simp [keepByte, h]

/-- If `keepByte` answers a next state, the index is inside the buffer and the byte is kept. -/
theorem keepByte_eq_next {i : Nat} {b m : Byte} {st : Fsm} {s t : State} (h : keepByte i b m st s = .next t) :
    i < Config.bufCap ∧ t = s.keep i b m st := by
  unfold keepByte at h
  split at h
  next hi => exact ⟨hi, by simpa using h.symm⟩
  next => simp at h

theorem reject_eq (code : DiagCode) (info : List Byte) (s : State) :
    reject code info s = .next ((s.emit [.diag code info]).abandon) := rfl

/-- If `thenAbandon` answers a next state, so did the operation before it. -/
theorem thenAbandon_eq_next {o : Outcome} {t : State} (h : thenAbandon o = .next t) : ∃ u, o = .next u ∧ t = u.abandon := by
  cases o with
  | next u => exact ⟨u, rfl, by simpa [thenAbandon] using h.symm⟩
  | fault r => simp [thenAbandon] at h
  | refused r => simp [thenAbandon] at h

/-! ### The PayloadDecoder and the PacketBuilder -/

/-- The PayloadDecoder only appends events. -/
theorem payloadDecode_cons (c : Byte) (rest : List Byte) (s : State) :
    payloadDecode (c :: rest) s =
      .next (s.emit (if c = Config.cmdReport then reportEvents (c :: rest) else [.diag .cmdIgnored [c]])) := by
  by_cases h : c = Config.cmdReport <;> simp [payloadDecode, execCmdSensorReport, execCmdOtherInbound, h]

theorem payloadDecode_eq_next {body : List Byte} {s t : State} (h : payloadDecode body s = .next t) :
    ∃ es, t = s.emit es := by
  cases body with
  | nil => simp [payloadDecode] at h
  | cons c rest => rw [payloadDecode_cons] at h; exact ⟨_, by simpa using h.symm⟩

/-- The builder's length check (R201). -/
theorem txLengthOk_iff {b : List Byte} : txLengthOk b = true ↔ 1 ≤ b.length ∧ b.length ≤ 31 := by
  unfold txLengthOk
  exact decide_eq_true_iff

/-- The length check of an inbound body (R80). -/
theorem bodyRestFits_iff {rest : List Byte} : bodyRestFits rest = true ↔ rest.length + 1 ≤ 73 := by
  unfold bodyRestFits
  exact decide_eq_true_iff

/-- The PacketBuilder only appends events. -/
theorem transmit_eq (a : Byte) (b : List Byte) (s : State) :
    transmit a b s = .next (s.emit (if txLengthOk b then
      [.tx (txReply (build a b) s.txPort).1, .result (txReply (build a b) s.txPort).2] else [.result .errLen])) := by
  unfold transmit
  split <;> simp_all

/-- If a frame is completed, its length byte and its body were read, and the PayloadDecoder's events follow the FRAME. -/
theorem completeFrame_eq_next {s t : State} (h : completeFrame s = .next t) :
    ∃ rLen body u, s.bufRead 2 = some rLen ∧ s.bufReadRange 3 rLen.toNat = .ok body ∧
      payloadDecode body (s.emit [.frame (body.headD 0) body]) = .next u ∧ t = u.abandon := by
  unfold completeFrame at h
  split at h
  · simp at h
  next rLen hl =>
    split at h
    · simp at h
    next body hb =>
      obtain ⟨u, hu, rfl⟩ := thenAbandon_eq_next h
      exact ⟨rLen, body, u, hl, hb, hu, rfl⟩

/-- Everything a FEED can do (R120): it skips the byte, keeps it, goes on to End, rejects, or completes a frame. -/
theorem execFeed_cases {b : Byte} {s t : State} (h : execFeed b s = .next t) :
    (s.state = .awaitStart ∧ b ≠ Config.startMarker ∧ t = s) ∨
    (s.state = .awaitStart ∧ b = Config.startMarker ∧ t = s.keep 0 b 0 .address) ∨
    (s.state = .address ∧ b ≠ Config.broadcast ∧ t = s.keep 1 b (s.sum + b) .length) ∨
    (s.state = .length ∧ b ≠ 0 ∧ b.toNat ≤ Config.maxBody ∧ t = s.keep 2 b (s.sum + b) .data) ∨
    (s.state = .data ∧ ∃ n, s.bufRead 2 = some n ∧ s.idx < Config.bufCap ∧
      t = s.keep s.idx b (s.sum + b) (if s.idx + 1 < n.toNat + 3 then .data else .checksum)) ∨
    (s.state = .checksum ∧ b = s.sum ∧ t = s.goto .frameEnd) ∨
    (s.state ≠ .awaitStart ∧ ∃ code info, t = (s.emit [.diag code info]).abandon) ∨
    (s.state = .frameEnd ∧ b = Config.endMarker ∧ completeFrame s = .next t) := by
  unfold execFeed at h
  split at h <;> rename_i hs
  · unfold feedAwaitStart at h
    split at h
    next hb => exact .inr (.inl ⟨hs, hb, (keepByte_eq_next h).2⟩)
    next hb => exact .inl ⟨hs, hb, by simpa using h.symm⟩
  · unfold feedAddress at h
    split at h
    next hb => exact .inr (.inr (.inr (.inr (.inr (.inr (.inl ⟨by simp [hs], _, _, by simpa [reject] using h.symm⟩))))))
    next hb => exact .inr (.inr (.inl ⟨hs, hb, (keepByte_eq_next h).2⟩))
  · unfold feedLength at h
    split at h
    next hb => exact .inr (.inr (.inr (.inr (.inr (.inr (.inl ⟨by simp [hs], _, _, by simpa [reject] using h.symm⟩))))))
    next hb =>
      simp only [not_or, Nat.not_lt] at hb
      exact .inr (.inr (.inr (.inl ⟨hs, hb.1, hb.2, (keepByte_eq_next h).2⟩)))
  · unfold feedData at h
    split at h
    · simp at h
    next n hn =>
      obtain ⟨hi, rfl⟩ := keepByte_eq_next h
      exact .inr (.inr (.inr (.inr (.inl ⟨hs, n, hn, hi, rfl⟩))))
  · unfold feedChecksum at h
    split at h
    next hb => exact .inr (.inr (.inr (.inr (.inr (.inl ⟨hs, hb, by simpa using h.symm⟩)))))
    next hb => exact .inr (.inr (.inr (.inr (.inr (.inr (.inl ⟨by simp [hs], _, _, by simpa [reject] using h.symm⟩))))))
  · unfold feedEnd at h
    split at h
    next hb => exact .inr (.inr (.inr (.inr (.inr (.inr (.inl ⟨by simp [hs], _, _, by simpa [reject] using h.symm⟩))))))
    next hb =>
      have hb' : b = Config.endMarker := Decidable.not_not.mp hb
      split at h
      · exact .inr (.inr (.inr (.inr (.inr (.inr (.inr ⟨hs, hb', h⟩))))))
      · split at h
        · simp at h
        · split at h
          · exact .inr (.inr (.inr (.inr (.inr (.inr (.inr ⟨hs, hb', h⟩))))))
          · exact .inr (.inr (.inr (.inr (.inr (.inr (.inl ⟨by simp [hs], _, _, by simpa [reject] using h.symm⟩))))))

/-- Everything an instruction can do to the registers. -/
theorem exec_cases {i : Instr} {s t : State} (h : exec i s = .next t) :
    (∃ b, i = .feed b ∧ execFeed b s = .next t) ∨ (i = .reset ∧ t = s.abandon) ∨
    (∃ v, i = .setTarget v ∧ t = s.setTarget v) ∨ (∃ es, t = s.emit es) := by
  cases i with
  | feed b => exact .inl ⟨b, rfl, h⟩
  | reset => exact .inr (.inl ⟨rfl, by simpa [exec, execReset] using h.symm⟩)
  | setTarget v => exact .inr (.inr (.inl ⟨v, rfl, by simpa [exec, execSetTarget] using h.symm⟩))
  | send a b => rw [exec, execSend, transmit_eq] at h; exact .inr (.inr (.inr ⟨_, by simpa using h.symm⟩))
  | cmdSensorReport r => exact .inr (.inr (.inr ⟨_, by simpa [exec, execCmdSensorReport] using h.symm⟩))
  | cmdParams a p => rw [exec, execCmdParams, transmit_eq] at h; exact .inr (.inr (.inr ⟨_, by simpa using h.symm⟩))
  | cmdWake a => rw [exec, execCmdWake, transmit_eq] at h; exact .inr (.inr (.inr ⟨_, by simpa using h.symm⟩))
  | cmdAutoreport a => rw [exec, execCmdAutoreport, transmit_eq] at h; exact .inr (.inr (.inr ⟨_, by simpa using h.symm⟩))
  | cmdOtherInbound c r => exact .inr (.inr (.inr ⟨_, by simpa [exec, execCmdOtherInbound] using h.symm⟩))

/-- Everything a step can do (log entry 1, R95). -/
theorem step_cases {s t : State} (h : step s = .next t) :
    (s.host = [] ∧ t = s) ∨
    (∃ op rest i, s.host = op :: rest ∧ decode (.host op.word op.port) = .ok i ∧ exec i (s.take op rest) = .next t) ∨
    (∃ op rest e, s.host = op :: rest ∧ decode (.host op.word op.port) = .error e ∧ t = (s.take op rest).refuse) := by
  unfold step at h
  split at h
  next hh => exact .inl ⟨hh, by simpa using h.symm⟩
  next op rest hh =>
    split at h
    next i hd => exact .inr (.inl ⟨op, rest, i, hh, hd, h⟩)
    next e hd => exact .inr (.inr ⟨op, rest, e, hh, hd, by simpa using h.symm⟩)

end Sys2Proof.Machine
end

