-- ==== Sys2Proof/Laws/Payload.lean ====
section
/-! SUPPORT. What the loop over the groups decodes (R163, R164), and the sum of bytes. -/

namespace Sys2Proof.Machine

/-! ### The group rules write their own fields only -/

@[simp] theorem decodeGroup_tag (g : Group) (body : List Byte) (c : Nat) (rec : Sample) :
    (decodeGroup g body c rec).tag = rec.tag := by cases g <;> rfl

@[simp] theorem decodeGroup_ts (g : Group) (body : List Byte) (c : Nat) (rec : Sample) :
    (decodeGroup g body c rec).ts = rec.ts := by cases g <;> rfl

@[simp] theorem decodeGroup_present (g : Group) (body : List Byte) (c : Nat) (rec : Sample) :
    (decodeGroup g body c rec).present = rec.present := by cases g <;> rfl

@[simp] theorem markPresent_tag (g : Group) (rec : Sample) : (markPresent g rec).tag = rec.tag := rfl

@[simp] theorem markPresent_ts (g : Group) (rec : Sample) : (markPresent g rec).ts = rec.ts := rfl

/-! ### The loop -/

/-- Where group `g` begins when the groups `gs` are taken from cursor `c`. -/
def startFrom (tag : BitVec 16) (gs : List Group) (c : Nat) (g : Group) : Nat :=
  c + (((gs.takeWhile (· ≠ g)).filter (Group.selected tag)).map Group.width).sum

/-- Group `g` is selected and fits when the groups `gs` are taken from cursor `c` of a body of `n` bytes. -/
def fitsFrom (tag : BitVec 16) (n : Nat) (gs : List Group) (c : Nat) (g : Group) : Bool :=
  g.selected tag && decide (startFrom tag gs c g + g.width ≤ n)

theorem startFrom_self (tag : BitVec 16) (g : Group) (gs : List Group) (c : Nat) : startFrom tag (g :: gs) c g = c := by
  simp [startFrom]

theorem startFrom_cons {tag : BitVec 16} {g h : Group} (gs : List Group) (c : Nat) (hne : h ≠ g) :
    startFrom tag (g :: gs) c h = startFrom tag gs (if g.selected tag then c + g.width else c) h := by
  have : decide (g ≠ h) = true := by simpa using hne.symm
  by_cases hs : g.selected tag <;> simp [startFrom, hs, hne.symm, Nat.add_assoc]

theorem le_startFrom (tag : BitVec 16) (gs : List Group) (c : Nat) (g : Group) : c ≤ startFrom tag gs c g :=
  Nat.le_add_right _ _

/-- The loop decodes exactly the selected groups that fit, each at its place, and is cut short at the first selected group
that does not fit. -/
theorem decodeGroups_eq (body : List Byte) (gs : List Group) (hd : gs.Nodup) (c : Nat) (rec : Sample) :
    decodeGroups body gs c rec =
      ((gs.filter (fitsFrom rec.tag body.length gs c)).foldl
          (fun r g => markPresent g (decodeGroup g body (startFrom rec.tag gs c g) r)) rec,
       (gs.find? fun g => g.selected rec.tag && !fitsFrom rec.tag body.length gs c g).map
          fun g => (g, startFrom rec.tag gs c g)) := by
  induction gs generalizing c rec with
  | nil => rfl
  | cons g gs ih =>
    obtain ⟨hg, hd⟩ := List.nodup_cons.mp hd
    have hne : ∀ h ∈ gs, h ≠ g := fun h hh e => hg (e ▸ hh)
    have hst : ∀ h ∈ gs, startFrom rec.tag (g :: gs) c h =
        startFrom rec.tag gs (if g.selected rec.tag then c + g.width else c) h :=
      fun h hh => startFrom_cons gs c (hne h hh)
    have hfit : ∀ h ∈ gs, fitsFrom rec.tag body.length (g :: gs) c h =
        fitsFrom rec.tag body.length gs (if g.selected rec.tag then c + g.width else c) h := by
      intro h hh
      simp [fitsFrom, hst h hh]
    have hself : fitsFrom rec.tag body.length (g :: gs) c g =
        (g.selected rec.tag && decide (c + g.width ≤ body.length)) := by
      simp [fitsFrom, startFrom_self]
    have hfold : ∀ (c' : Nat) (l : List Group) (r : Sample), (∀ h ∈ l, startFrom rec.tag (g :: gs) c h = startFrom rec.tag gs c' h) →
        l.foldl (fun r g' => markPresent g' (decodeGroup g' body (startFrom rec.tag (g :: gs) c g') r)) r =
        l.foldl (fun r g' => markPresent g' (decodeGroup g' body (startFrom rec.tag gs c' g') r)) r := by
      intro c' l
      induction l with
      | nil => intros; rfl
      | cons a l ihl =>
        intro r hl
        simp only [List.foldl_cons]
        rw [hl a List.mem_cons_self]
        exact ihl _ fun h hh => hl h (List.mem_cons_of_mem _ hh)
    have hfind : ∀ (c' : Nat) (l : List Group),
        (∀ h ∈ l, startFrom rec.tag (g :: gs) c h = startFrom rec.tag gs c' h) →
        (∀ h ∈ l, fitsFrom rec.tag body.length (g :: gs) c h = fitsFrom rec.tag body.length gs c' h) →
        (l.find? fun g' => g'.selected rec.tag && !fitsFrom rec.tag body.length (g :: gs) c g').map
            (fun g' => (g', startFrom rec.tag (g :: gs) c g')) =
        (l.find? fun g' => g'.selected rec.tag && !fitsFrom rec.tag body.length gs c' g').map
            fun g' => (g', startFrom rec.tag gs c' g') := by
      intro c' l
      induction l with
      | nil => intros; rfl
      | cons a l ihl =>
        intro h1 h2
        have ih' := ihl (fun h hh => h1 h (List.mem_cons_of_mem _ hh)) (fun h hh => h2 h (List.mem_cons_of_mem _ hh))
        simp only [List.find?_cons, h2 a List.mem_cons_self]
        split
        · simp [h1 a List.mem_cons_self]
        · exact ih'
    by_cases hs : g.selected rec.tag
    · simp only [hs, if_true] at hst hfit
      by_cases hl : body.length < c + g.width
      · have hnone : gs.filter (fitsFrom rec.tag body.length (g :: gs) c) = [] := by
          rw [List.filter_eq_nil_iff]
          intro h hh
          have := le_startFrom rec.tag gs (c + g.width) h
          rw [hfit h hh, fitsFrom]
          simp only [Bool.and_eq_true, decide_eq_true_eq, not_and]
          omega
        simp [decodeGroups, hs, hl, hself, hnone, startFrom_self,
          Nat.not_le_of_lt hl]
      · have hle : c + g.width ≤ body.length := Nat.le_of_not_lt hl
        rw [decodeGroups, if_pos hs, if_neg hl, ih hd]
        simp only [decodeGroup_tag, markPresent_tag, List.filter_cons, List.find?_cons, hself, hs, hle, decide_true,
          Bool.and_self, if_true, List.foldl_cons, startFrom_self, Bool.not_true, Bool.and_false]
        rw [List.filter_congr hfit, hfind _ gs hst hfit,
          hfold (c + g.width) _ _ fun h hh => hst h (List.mem_of_mem_filter hh)]
    · simp only [hs, if_false, Bool.false_eq_true] at hst hfit
      rw [decodeGroups, if_neg hs, ih hd]
      simp only [List.filter_cons, List.find?_cons, hself, hs, Bool.false_and, if_false, Bool.false_eq_true]
      rw [List.filter_congr hfit, hfind _ gs hst hfit,
        hfold c _ _ fun h hh => hst h (List.mem_of_mem_filter hh)]

/-! ### The sum of bytes -/

@[simp] theorem byteSum_nil : byteSum [] = 0 := rfl

@[simp] theorem byteSum_cons (b : Byte) (bs : List Byte) : byteSum (b :: bs) = b + byteSum bs := rfl

theorem byteSum_append (xs ys : List Byte) : byteSum (xs ++ ys) = byteSum xs + byteSum ys := by
  induction xs with
  | nil => simp
  | cons x xs ih => simp [ih, BitVec.add_assoc]

end Sys2Proof.Machine
end

