-- ==== Sys2Proof/Laws/PerInstr.lean ====
section
/-! SUPPORT. Statements for all instructions, made per instruction. Family RowBits: the encoding of an instruction has the
bits its row of spec/opcode_table.json fixes (R85, R92), and its decoding, where there is one, stays in that row. -/

namespace Sys2Proof.Laws.RowBits

/-- The leading bits of a well-formed instruction's encoding match its row's mask and pattern, and fit its row's width. -/
def Statement (i : Instr) : Prop :=
  i.wellFormed = true →
    (encode i).tableBits &&& i.row.mask = i.row.pattern ∧ (encode i).tableBits < 2 ^ i.row.bits

theorem hostWord_row (op : BitVec 4) (v : Byte) :
    (hostWord op v).toNat &&& 0xFF00 = op.toNat * 0x1000 ∧ (hostWord op v).toNat < 2 ^ 16 := by
  refine ⟨?_, (hostWord op v).isLt⟩
  revert op v
  decide

theorem feed (b : Byte) : Statement (.feed b) := fun _ => hostWord_row 1 b

theorem reset : Statement .reset := fun _ => by decide

theorem setTarget (v : Byte) : Statement (.setTarget v) := fun _ => hostWord_row 3 v

theorem send (a : Byte) (b : List Byte) : Statement (.send a b) := fun _ => hostWord_row 4 a

theorem cmdSensorReport (rest : List Byte) : Statement (.cmdSensorReport rest) :=
  fun _ => (by decide : (17 &&& 0xFF = 17 ∧ 17 < 2 ^ 8))

theorem cmdParams (a : Byte) (p : ParamBlock) : Statement (.cmdParams a p) :=
  fun _ => (by decide : (18 &&& 0xFF = 18 ∧ 18 < 2 ^ 8))

theorem cmdWake (a : Byte) : Statement (.cmdWake a) := fun _ => (by decide : (3 &&& 0xFF = 3 ∧ 3 < 2 ^ 8))

theorem cmdAutoreport (a : Byte) : Statement (.cmdAutoreport a) := fun _ => (by decide : (25 &&& 0xFF = 25 ∧ 25 < 2 ^ 8))

theorem cmdOtherInbound (c : Byte) (rest : List Byte) : Statement (.cmdOtherInbound c rest) :=
  fun _ => ⟨Nat.and_zero _, c.isLt⟩

end Sys2Proof.Laws.RowBits
end

