-- ==== Sys2Proof/Tests/Slice0.lean ====
section
/-! SUPPORT. The model's own tests. Expected results come from the tables of 95_test_vectors.md and from the rules cited, not
from the model. After the tests stand the witnesses: for each obligation with hypotheses a state and operands that meet
them, clause by clause at the boundary values. -/

namespace Sys2Proof.Tests

open Sys2Proof Sys2Proof.Machine

/-! ### Helpers -/

/-- A state in `st` with the bytes `held` in `buf` from index 0. -/
def holding (st : Fsm) (held : List Byte) (sum : Byte) : State :=
  { State.reset with state := st, buf := Memory.place [] 0 held, idx := held.length, sum := sum }

/-- The events that an outcome's state holds, and the registers idx and sum. -/
def view (o : Outcome) : Option (Fsm × Nat × Byte × List Event) :=
  match o with
  | .next t => some (t.state, t.idx, t.sum, t.out)
  | _ => none

/-- The last sample of an outcome's output stream. -/
def sampleOf (o : Outcome) : Option Sample :=
  match o with
  | .next t => t.out.findSome? fun e => match e with
    | .sample rec => some rec
    | _ => none
  | _ => none

/-- The event numbers of R250 and R251 that an outcome's output stream holds. -/
def codesOf (o : Outcome) : List Nat :=
  match o with
  | .next t => t.out.filterMap fun e => match e with
    | .diag code _ => some code.number.toNat
    | .result r => some r.number
    | _ => none
  | _ => []

/-- The bit patterns of three axes. -/
def physOf (v : Vec3) : List F32 := [v.x.phys, v.y.phys, v.z.phys]

/-- The raw values of three axes. -/
def rawOf (v : Vec3) : List Int := [v.x.raw, v.y.raw, v.z.raw]

/-- The state after F11 of 95_test_vectors.md: End, with the frame `49 01 01 03 05` received. -/
def afterF11 : State := holding .frameEnd [0x49, 0x01, 0x01, 0x03] 0x05

/-! ### Well-formedness: one ill-formed term for each check -/

theorem test_wellFormed_report_at_limit : (Instr.cmdSensorReport (List.replicate 72 0)).wellFormed = true := by decide

theorem test_illFormed_report_too_long : (Instr.cmdSensorReport (List.replicate 73 0)).wellFormed = false := by decide

theorem test_illFormed_other_too_long : (Instr.cmdOtherInbound 0x12 (List.replicate 73 0)).wellFormed = false := by decide

theorem test_illFormed_other_is_report : (Instr.cmdOtherInbound 0x11 []).wellFormed = false := by decide

/-! ### Decoding: words written out from R91, R92 and R97 -/

theorem test_decode_feed : decode (.host 0b0001_0000_01001001 []) = .ok (.feed 0x49) := by decide

theorem test_decode_reset : decode (.host 0b0010_0000_00000000 []) = .ok .reset := by decide

theorem test_decode_setTarget : decode (.host 0b0011_0000_11111111 []) = .ok (.setTarget 0xFF) := by decide

theorem test_decode_send : decode (.host 0b0100_0000_10000001 [0x03, 0xFF]) = .ok (.send 0x81 [0x03, 0xFF]) := by decide

/-- Only SEND takes the body port (R92). -/
theorem test_decode_feed_ignores_port : decode (.host 0x1003 [0x55]) = .ok (.feed 0x03) := by decide

/-- C-6 to C-9 of 95_test_vectors.md. -/
theorem test_decode_reserved :
    decode (.host 0x5000 []) = .error .reservedOp ∧ decode (.host 0x2001 []) = .error .resetOperand ∧
      decode (.host 0x1149 []) = .error .reservedZ ∧ decode (.host 0x0000 []) = .error .reservedOp := by decide

theorem test_decode_report : decode (.inbound [0b00010001, 0x02, 0x00]) = .ok (.cmdSensorReport [0x02, 0x00]) := by decide

/-- R87: the tag is `body[9..11)`, low byte first. -/
theorem test_decode_params :
    decode (.outbound 0x01 [0b00010010, 1, 2, 3, 4, 5, 6, 7, 8, 0x34, 0x12]) =
      .ok (.cmdParams 0x01 ⟨1, 2, 3, 4, 5, 6, 7, 8, 0x1234⟩) := by decide

theorem test_decode_wake : decode (.outbound 0x01 [0b00000011]) = .ok (.cmdWake 0x01) := by decide

theorem test_decode_autoreport : decode (.outbound 0x01 [0b00011001]) = .ok (.cmdAutoreport 0x01) := by decide

/-- R85, R161: inbound, 0x12, 0x03 and 0x19 are other commands. -/
theorem test_decode_other_inbound :
    decode (.inbound [0x12]) = .ok (.cmdOtherInbound 0x12 []) ∧ decode (.inbound [0x03]) = .ok (.cmdOtherInbound 0x03 []) ∧
      decode (.inbound [0x19]) = .ok (.cmdOtherInbound 0x19 []) := by decide

/-- R96(b): bodies of no byte and of over 73 bytes. -/
theorem test_decode_body_length :
    decode (.inbound []) = .error .emptyBody ∧ decode (.inbound (0x11 :: List.replicate 73 0)) = .error .bodyTooLong ∧
      decode (.inbound (0x11 :: List.replicate 72 0)) = .ok (.cmdSensorReport (List.replicate 72 0)) := by decide

/-- No two of R92's rows match one word: they differ in a bit that both fix. -/
theorem test_host_rows_disjoint :
    hostRows.Pairwise fun p q => (p.pattern ^^^ q.pattern) &&& p.mask &&& q.mask ≠ 0 := by decide

/-- The rows of spec/opcode_table.json: each pattern decodes to its own instruction. -/
theorem test_table_words :
    decodeTableWord 16 0x1000 = some (.feed 0) ∧ decodeTableWord 16 0x2000 = some .reset ∧
      decodeTableWord 16 0x3000 = some (.setTarget 0) ∧ decodeTableWord 16 0x4000 = some (.send 0 [0]) ∧
      decodeTableWord 8 0x11 = some (.cmdSensorReport [0, 0, 0, 0, 0, 0]) ∧
      decodeTableWord 8 0x12 = some (.cmdParams 0 ⟨0, 0, 0, 0, 0, 0, 0, 0, 0⟩) ∧ decodeTableWord 8 0x03 = some (.cmdWake 0) ∧
      decodeTableWord 8 0x19 = some (.cmdAutoreport 0) ∧ decodeTableWord 8 0x00 = some (.cmdOtherInbound 0 []) ∧
      decodeTableWord 16 0x2001 = none := by decide

/-- R97, R98: assembler lines and their operations (P1 and P4 of 95_test_vectors.md). -/
theorem test_assembler :
    (Asm.text (.feed 0x4D) = "FEED 0x4d" ∧ Asm.text (.send 0x01 [0x03, 0x19]) = "SEND 0x01, [0x03, 0x19]") ∧
      (Asm.ops (.written 56) (.feedFrame 0x01 [0x03])).map (·.word) = [0x1049, 0x1001, 0x1001, 0x1003, 0x1005, 0x104D] ∧
      Asm.ops (.written 56) (.wake 0x01) = [⟨0x4001, [0x03], .written 56⟩] := by decide

/-! ### One step of each instruction -/

/-- R121a: the marker is stored, the sum starts at 0 and does not count it. -/
theorem test_feed_start :
    view (exec (.feed 0x49) State.reset) = some (.address, 1, 0, []) := by decide

/-- C-4 of 95_test_vectors.md: the last byte of F11, for device 0x01. -/
theorem test_feed_completes_frame :
    view (exec (.feed 0x4D) { afterF11 with targetAddr := 0x01 }) =
      some (.awaitStart, 0, 0, [.frame 0x03 [0x03], .diag .cmdIgnored [0x03]]) := by decide

/-- C-2 of 95_test_vectors.md. -/
theorem test_reset_mid_frame :
    view (exec .reset (holding .checksum [0x49, 0x01, 0x01, 0x03] 0x05)) = some (.awaitStart, 0, 0, []) := by decide

/-- C-3 of 95_test_vectors.md. -/
theorem test_setTarget : exec (.setTarget 0x02) State.reset = .next { State.reset with targetAddr := 0x02 } := by rfl

/-- S3 of 95_test_vectors.md: the checksum wraps. -/
theorem test_send_wraps :
    view (exec (.send 0xFF [0x19]) { State.reset with txPort := .written 56 }) = some (.awaitStart, 0, 0,
      [.tx (List.replicate 46 0 ++ [0x00, 0xFF, 0x00, 0xFF, 0x49, 0xFF, 0x01, 0x19, 0x19, 0x4D]), .result .ok]) := by decide

/-- S9 of 95_test_vectors.md: 53 bytes reach the wire, and the result is ERR_TX, number 2. -/
theorem test_send_fails :
    view (exec (.send 0x01 [0x03]) { State.reset with txPort := .failed 53 }) = some (.awaitStart, 0, 0,
      [.tx (List.replicate 46 0 ++ [0x00, 0xFF, 0x00, 0xFF, 0x49, 0x01, 0x01]), .result .errTx]) := by decide

/-- V1 of 95_test_vectors.md: tag 0x0002, raw (100, -200, 9800). -/
theorem test_report_V1 :
    (sampleOf (exec (.cmdSensorReport [0x02, 0x00, 0x34, 0x12, 0x00, 0x00, 0x64, 0x00, 0x38, 0xFF, 0x48, 0x26]) State.reset)).map
      (fun rec => ((rec.tag, rec.ts, rec.present), rawOf rec.accg, physOf rec.accg)) =
      some ((0x0002, 0x1234, 0x02), [100, -200, 9800], [0x3EF50000, 0xBF750000, 0x423B9400]) := by decide

/-- P-D3 of 95_test_vectors.md: truncated at group 0x02, cursor 13, after group 0x01. -/
theorem test_report_truncated :
    (view (exec (.cmdSensorReport [0x7F, 0, 1, 2, 3, 4, 0, 1, 2, 3, 4, 5, 0, 0, 0]) State.reset)).map
        (fun v => v.2.2.2.head?) = some (some (.diag .reportTruncated [0x02, 13])) ∧
      (sampleOf (exec (.cmdSensorReport [0x7F, 0, 1, 2, 3, 4, 0, 1, 2, 3, 4, 5, 0, 0, 0]) State.reset)).map
        (fun rec => (rec.present, rec.ts, rawOf rec.acc)) = some (0x01, 0x04030201, [256, 770, 1284]) := by decide

/-- S4 of 95_test_vectors.md, as PARAMS (R98). -/
theorem test_params_S4 :
    view (exec (.cmdParams 0x01 ⟨1, 2, 3, 4, 5, 6, 7, 8, 0x0A09⟩) { State.reset with txPort := .written 66 }) =
      some (.awaitStart, 0, 0, [.tx (List.replicate 46 0 ++ [0x00, 0xFF, 0x00, 0xFF, 0x49, 0x01, 0x0B, 0x12, 1, 2, 3, 4, 5, 6,
        7, 8, 9, 0x0A, 0x55, 0x4D]), .result .ok]) := by decide

/-- S8 of 95_test_vectors.md, as WAKE. -/
theorem test_wake_S8 :
    view (exec (.cmdWake 0x01) { State.reset with txPort := .written 10 }) =
      some (.awaitStart, 0, 0, [.tx (List.replicate 10 0), .result .errTx]) := by decide

/-- S2 of 95_test_vectors.md, as AUTOREPORT. -/
theorem test_autoreport_S2 :
    view (exec (.cmdAutoreport 0x01) { State.reset with txPort := .written 56 }) = some (.awaitStart, 0, 0,
      [.tx (List.replicate 46 0 ++ [0x00, 0xFF, 0x00, 0xFF, 0x49, 0x01, 0x01, 0x19, 0x1B, 0x4D]), .result .ok]) := by decide

/-- P-D7 of 95_test_vectors.md: the command is checked before the length. -/
theorem test_other_inbound_P_D7 :
    view (exec (.cmdOtherInbound 0x12 [0, 0, 0]) State.reset) = some (.awaitStart, 0, 0, [.diag .cmdIgnored [0x12]]) := by
  decide

/-- C-6 of 95_test_vectors.md: a reserved word sets `refused` and nothing else. -/
theorem test_step_reserved :
    step (State.reset.issue 0x5000 []) =
      .next { State.reset with refused := true, host := [], txPort := .written 55 } := by rfl

/-- Each row runs in the very next step: the numbers of the events show which (R250, R251). -/
theorem test_withFetchWord_host_word_runs :
    codesOf (step (State.reset.withFetchWord 16 0x4001)) = [0] ∧
      view (step (State.reset.withFetchWord 16 0x1049)) = some (.address, 1, 0, []) := ⟨rfl, rfl⟩

theorem test_withFetchWord_outbound_runs :
    codesOf (step (State.reset.withFetchWord 8 0x12)) = [0] ∧ codesOf (step (State.reset.withFetchWord 8 0x03)) = [0] ∧
      codesOf (step (State.reset.withFetchWord 8 0x19)) = [0] := ⟨rfl, rfl, rfl⟩

theorem test_withFetchWord_inbound_runs :
    codesOf (step (State.reset.withFetchWord 8 0x00)) = [6] ∧
      (sampleOf (step (State.reset.withFetchWord 8 0x11))).map (·.present) = some 0 := ⟨rfl, rfl⟩

/-! ### Values -/

/-- R22's and R250's and R251's numbers. -/
theorem test_numbers :
    [Fsm.awaitStart, .address, .length, .data, .checksum, .frameEnd].map Fsm.number = [0, 1, 2, 3, 4, 5] ∧
      [DiagCode.addrBroadcast, .lenInvalid, .checksumMismatch, .badTerminator, .addrMismatch, .cmdIgnored, .shortReport,
        .reportTruncated].map DiagCode.number = [1, 2, 3, 4, 5, 6, 7, 8] ∧
      [SendResult.ok, .errLen, .errTx].map SendResult.number = [0, 1, 2] := by decide

/-- The corner table of 95_test_vectors.md: `Phys(raw, SCALE_ACCEL)`. -/
theorem test_phys_corners :
    [0, 1, -1, 100, -200, 2048, -2048, 9800, 32767, -32768].map (fun raw => phys raw scaleAccel) =
      [0x00000000, 0x3B9CCCCD, 0xBB9CCCCD, 0x3EF50000, 0xBF750000, 0x411CCCCD, 0xC11CCCCD, 0x423B9400, 0x431CCB93,
        0xC31CCCCD] := by decide

/-- The raw field corners of 95_test_vectors.md (R89). -/
theorem test_raw_corners :
    i16At [0x00, 0x80] 0 = -32768 ∧ i16At [0xFF, 0x7F] 0 = 32767 ∧ i16At [0xFF, 0xFF] 0 = -1 ∧
      i24At [0x00, 0x00, 0x80] 0 = -8388608 ∧ i24At [0xFF, 0xFF, 0x7F] 0 = 8388607 ∧ i24At [0xFF, 0xFF, 0xFF] 0 = -1 ∧
      i24At [0x01, 0x00, 0x00] 0 = 1 := by decide

/-- S7's checksum (95_test_vectors.md). -/
theorem test_checksum : checksum 0xFE (List.replicate 31 0xFF) = 0xFE := by decide

/-- The bits of the seven groups, in R86's table. -/
theorem test_group_bits : Group.order.map Group.bit = [0x01, 0x02, 0x04, 0x08, 0x10, 0x20, 0x40] := by decide

/-! ### Witnesses: FEED, transition by transition -/

theorem witness_AwaitStartTakesMarkerOnly :
    State.reset.state = .awaitStart ∧ (0x49 : Byte) = 0x49 ∧ (0x48 : Byte) ≠ 0x49 ∧ (0x4A : Byte) ≠ 0x49 := by decide

/-- The state after the start marker. -/
def inAddress : State := holding .address [0x49] 0

/-- The state after the start marker and address 0x01. -/
def inLength : State := holding .length [0x49, 0x01] 0x01

theorem witness_AddressRejectsBroadcastOnly :
    inAddress.state = .address ∧ (0xFF : Byte) = 255 ∧ (0xFE : Byte) ≠ 255 ∧ (0 : Byte) ≠ 255 := by decide

/-- Lengths 0 and 74 and 255 fall under the first clause only, 1 and 73 under the second only. -/
theorem witness_LengthAcceptsOneToSeventyThree :
    inLength.state = .length ∧ (∀ b ∈ [(0 : Byte), 74, 255], (b.toNat = 0 ∨ 73 < b.toNat) ∧ ¬(1 ≤ b.toNat ∧ b.toNat ≤ 73)) ∧
      ∀ b ∈ [(1 : Byte), 73], (1 ≤ b.toNat ∧ b.toNat ≤ 73) ∧ ¬(b.toNat = 0 ∨ 73 < b.toNat) := by decide

/-- A Data state with length 2: idx 3 expects the first body byte, idx 4 the last. -/
theorem witness_DataKeepsEveryByte :
    (let s := holding .data [0x49, 0x01, 0x02] 0x03;
      s.state = .data ∧ s.bufRead 2 = some 0x02 ∧ s.idx < 78 ∧ s.idx + 1 < (0x02 : Byte).toNat + 3) ∧
    (let s := holding .data [0x49, 0x01, 0x02, 0x11] 0x14;
      s.state = .data ∧ s.bufRead 2 = some 0x02 ∧ s.idx < 78 ∧ ¬ s.idx + 1 < (0x02 : Byte).toNat + 3) ∧
    (let s := holding .data ([0x49, 0x01, 0xFF] ++ List.replicate 74 0) 0;
      s.state = .data ∧ s.bufRead 2 = some 0xFF ∧ s.idx = 77 ∧ s.idx < 78) := by decide

theorem witness_ChecksumByteMustEqualSum :
    (holding .checksum [0x49, 0x01, 0x01, 0x03] 0x05).state = .checksum ∧
      (0x05 : Byte) = (holding .checksum [0x49, 0x01, 0x01, 0x03] 0x05).sum ∧
      (0x06 : Byte) ≠ (holding .checksum [0x49, 0x01, 0x01, 0x03] 0x05).sum := by decide

theorem witness_EndRejectsBadTerminator : afterF11.state = .frameEnd ∧ (0x4C : Byte) ≠ 0x4D ∧ (0x49 : Byte) ≠ 0x4D := by
  decide

/-- C-5 of 95_test_vectors.md. -/
theorem witness_EndDropsForeignAddress :
    let s := { afterF11 with targetAddr := 0x02 };
    s.state = .frameEnd ∧ s.bufRead 1 = some 0x01 ∧ s.targetAddr ≠ 255 ∧ (0x01 : Byte) ≠ s.targetAddr := by decide

/-- A one-byte body for any address, the same for address 0x01, and a body of 73 bytes. -/
theorem witness_EndCompletesAcceptedFrame :
    (let s := afterF11;
      s.state = .frameEnd ∧ s.bufRead 2 = some 1 ∧ s.bufReadRange 3 (1 : Byte).toNat = .ok [0x03] ∧ s.targetAddr = 255) ∧
    (let s := { afterF11 with targetAddr := 0x01 };
      s.state = .frameEnd ∧ s.bufRead 2 = some 1 ∧ s.bufReadRange 3 (1 : Byte).toNat = .ok [0x03] ∧
        s.bufRead 1 = some s.targetAddr) ∧
    (let s := holding .frameEnd ([0x49, 0x01, 73] ++ List.replicate 73 0x20) 0;
      s.state = .frameEnd ∧ s.bufRead 2 = some 73 ∧ s.bufReadRange 3 (73 : Byte).toNat = .ok (List.replicate 73 0x20) ∧
        s.targetAddr = 255) := by decide

/-- One state for each of the seven stops. -/
theorem witness_FeedStopsOutsideBuffer :
    (let s := holding .data ([0x49, 0x01, 0xFF] ++ List.replicate 75 0) 0;
      s.state = .data ∧ s.bufRead 2 = some 0xFF ∧ s.idx = 78) ∧
    ((holding .data [0x49, 0x01] 0).state = .data ∧ (holding .data [0x49, 0x01] 0).bufRead 2 = none) ∧
    (let s := { holding .frameEnd [0x49] 0 with targetAddr := 0xFE };
      s.state = .frameEnd ∧ s.targetAddr ≠ 255 ∧ s.bufRead 1 = none) ∧
    ((holding .frameEnd [0x49, 0x01] 0).targetAddr = 255 ∧ (holding .frameEnd [0x49, 0x01] 0).bufRead 2 = none) ∧
    (let s := { holding .frameEnd [0x49, 0x01, 0x00] 0 with targetAddr := 0x01 };
      s.bufRead 1 = some s.targetAddr ∧ s.bufRead 2 = some 0) ∧
    (let s := holding .frameEnd [0x49, 0x01, 0x02, 0x11] 0;
      s.targetAddr = 255 ∧ s.bufRead 2 = some 2 ∧ s.bufReadRange 3 (2 : Byte).toNat = .error 4) := by decide

/-! ### Witnesses: properties of the FrameDecoder -/

/-- 0x49 as a wrong checksum byte (F18 of 95_test_vectors.md). -/
theorem witness_RejectingByteIsNotRescanned :
    (holding .checksum [0x49, 0x01, 0x01, 0x03] 0x05).state ≠ .awaitStart ∧
      ∃ t, exec (.feed 0x49) (holding .checksum [0x49, 0x01, 0x01, 0x03] 0x05) = .next t := ⟨by decide, _, rfl⟩

/-- Data with two of three body bytes held meets the invariant. -/
def inData : State := holding .data [0x49, 0x01, 0x03, 0x11, 0x02] 0x17

theorem inData_inv : FrameInv inData :=
  ⟨by decide, [0x49, 0x01, 0x03, 0x11, 0x02], by rfl, 0x01, 0x03, [0x11, 0x02], by decide⟩

/-- Address meets the invariant. -/
theorem inAddress_inv : FrameInv inAddress := ⟨by decide, [0x49], by rfl, rfl, rfl⟩

/-- Length meets the invariant. -/
theorem inLength_inv : FrameInv inLength := ⟨by decide, [0x49, 0x01], by rfl, 0x01, by decide⟩

/-- Checksum meets the invariant. -/
theorem inChecksum_inv : FrameInv (holding .checksum [0x49, 0x01, 0x01, 0x03] 0x05) :=
  ⟨by decide, [0x49, 0x01, 0x01, 0x03], by rfl, 0x01, 0x01, [0x03], by decide⟩

/-- End meets the invariant. -/
theorem afterF11_inv : FrameInv afterF11 := ⟨by decide, [0x49, 0x01, 0x01, 0x03], by rfl, 0x01, 0x01, [0x03], by decide⟩

theorem witness_EveryInstructionCompletes : FrameInv inData ∧ FrameInv (inData.issue 0x5000 []) :=
  ⟨inData_inv, by decide, [0x49, 0x01, 0x03, 0x11, 0x02], by rfl, 0x01, 0x03, [0x11, 0x02], by decide⟩

theorem witness_StepKeepsFrameInvariant : ∃ t, FrameInv (inData.issue 0x1007 []) ∧ step (inData.issue 0x1007 []) = .next t :=
  ⟨_, ⟨by decide, [0x49, 0x01, 0x03, 0x11, 0x02], by rfl, 0x01, 0x03, [0x11, 0x02], by decide⟩, rfl⟩

theorem witness_StepKeepsBufferCanonical :
    ∃ t, (inData.issue 0x1007 []).buf.wf = true ∧ step (inData.issue 0x1007 []) = .next t := ⟨_, by decide, rfl⟩

theorem witness_AttemptIsBounded :
    FrameInv inAddress ∧ inAddress.state = .address ∧ (List.replicate 77 (0x49 : Byte)).length = 77 :=
  ⟨inAddress_inv, rfl, by decide⟩

/-- Two states that differ in buf[5], with idx 5. -/
theorem witness_BufferAboveIdxIsUnobservable :
    FrameInv inData ∧ FrameInv { inData with buf := inData.buf.write 5 0xAA } ∧
      SameBelowIdx inData { inData with buf := inData.buf.write 5 0xAA } := by
  exact ⟨inData_inv, ⟨by decide, [0x49, 0x01, 0x03, 0x11, 0x02], by rfl, 0x01, 0x03, [0x11, 0x02], by decide⟩, rfl, by decide⟩

/-- The shortest and the longest body, for any address and for one. -/
theorem witness_WellFormedFrameIsReceived :
    State.reset.state = .awaitStart ∧ State.reset.targetAddr = 255 ∧ (0x01 : Byte) ≠ 255 ∧
      ({ State.reset with targetAddr := 0x01 } : State).targetAddr = 0x01 ∧
      (∀ b ∈ [[(0x03 : Byte)], List.replicate 73 0x11], 1 ≤ b.length ∧ b.length ≤ 73) := by decide

theorem witness_OutboundFrameFedBackRoundTrips :
    State.reset.state = .awaitStart ∧ State.reset.targetAddr = 255 ∧ (0x01 : Byte) ≠ 255 ∧
      ({ State.reset with targetAddr := 0x01 } : State).targetAddr = 0x01 ∧
      (∀ b ∈ [[(0x03 : Byte)], List.replicate 31 0x11], 1 ≤ b.length ∧ b.length ≤ 31) := by decide

theorem witness_PreambleAndSyncAreSkipped : State.reset.state = .awaitStart := rfl

/-- A flipped body bit, at the top bit of the last of 73 bytes, and a flipped checksum bit. -/
theorem witness_SingleBitErrorIsRejected :
    State.reset.state = .awaitStart ∧ (0x01 : Byte) ≠ 255 ∧
      OneBitError 0x01 (List.replicate 73 0x00) (List.replicate 72 0x00 ++ [0x80])
        (checksum 0x01 (List.replicate 73 0x00)) ∧
      OneBitError 0x01 [0x03] [0x03] 0x04 := by
  refine ⟨rfl, by decide, .inl ⟨72, 7, by decide, by decide, by decide, rfl⟩, .inr ⟨0, by decide, rfl, by decide⟩⟩

/-- A frame's last bytes in one read and in two, for two states that differ in `out`, `refused`, `txPort`, `host` and buf[5]. -/
theorem witness_FeedDependsOnDecoderAndTargetOnly :
    [[(0x05 : Byte), 0x1C, 0x4D]].flatten = [[(0x05 : Byte)], [0x1C, 0x4D]].flatten ∧ FrameInv inData ∧
      SameDecoder inData { inData.issue 0x2000 [] with
        buf := inData.buf.write 5 0xAA, out := [.result .errLen], refused := true, txPort := .written 3 } :=
  ⟨rfl, inData_inv, rfl, rfl, rfl, rfl, by decide⟩

theorem witness_FeedEmitsOneCondition : ∃ t, exec (.feed 0x4D) afterF11 = .next t := ⟨_, rfl⟩

theorem witness_OutputIsOnlyAppended : ∃ t, step (afterF11.issue 0x104D []) = .next t := ⟨_, rfl⟩

theorem witness_OnlySetTargetWritesTarget :
    exec (.setTarget 0x01) State.reset = .next { State.reset with targetAddr := 0x01 } ∧
      ({ State.reset with targetAddr := 0x01 } : State).targetAddr ≠ State.reset.targetAddr := ⟨rfl, by decide⟩

/-! ### Witnesses: RESET and SET_TARGET -/

theorem witness_ControlOperationsLeaveBuffer :
    (∃ t, exec .reset inData = .next t) ∧ ∃ t, exec (.setTarget 0x02) inData = .next t := ⟨⟨_, rfl⟩, _, rfl⟩

/-- The three cases of the target: 255, the frame's address, another one. -/
theorem witness_TargetIsReadAtEnd :
    FrameInv afterF11 ∧ afterF11.state = .frameEnd ∧ afterF11.bufRead 1 = some 0x01 ∧
      (∀ v ∈ [(0xFF : Byte), 0x01], v = 255 ∨ 0x01 = v) ∧ ¬((0x02 : Byte) = 255 ∨ (0x01 : Byte) = 0x02) :=
  ⟨afterF11_inv, rfl, rfl, by decide, by decide⟩

/-- A stale frame attempt beside a fresh decoder. -/
theorem witness_ReopenForgetsEarlierBytes :
    resetsOnReopen true [.reopen, .op .reset, .op (.feed 0x49)] = true ∧ inData.targetAddr = State.reset.targetAddr ∧
      inData.txPort = State.reset.txPort ∧ inData ≠ State.reset := by decide

/-! ### Witnesses: SEND -/

theorem witness_SendRejectsWrongLength :
    ∀ b ∈ [([] : List Byte), List.replicate 32 0, List.replicate 74 0], b.length = 0 ∨ 31 < b.length := by decide

theorem witness_SendSucceedsOnFullWriteOnly :
    ∀ b ∈ [[(0x03 : Byte)], List.replicate 31 0xFF], 1 ≤ b.length ∧ b.length ≤ 31 := by decide

/-- Every kind of failure, at the ends of its range. -/
theorem witness_SendFailureLeavesPrefix :
    (1 ≤ [(0x03 : Byte)].length ∧ [(0x03 : Byte)].length ≤ 31) ∧
      ∀ o ∈ [TxOutcome.written 0, .written 55, .failed 0, .failed 56], drawnBytes o ≤ 55 + 1 ∧ o ≠ .written (55 + 1) ∧
        ({ State.reset with txPort := o } : State).txPort = o := by decide

theorem witness_legalDraw :
    legalDraw 56 (.written 0) ∧ legalDraw 56 (.written 55) ∧ legalDraw 56 (.failed 0) ∧ legalDraw 56 (.failed 56) := by
  refine ⟨?_, ?_, ?_, ?_⟩ <;> simp [legalDraw]

theorem witness_DecoderAndBuilderShareNothing :
    State.reset.txPort = .failed 0 ∧ ∃ t, exec (.feed 0x49) State.reset = .next t := ⟨rfl, _, rfl⟩

theorem witness_OutboundCommandsAreSent :
    ({ State.reset with txPort := .written 56 } : State).txPort = .written 56 ∧
      ({ State.reset with txPort := .written 66 } : State).txPort = .written 66 := by decide

/-- The parameter block of P5 (95_test_vectors.md). -/
def paramsP5 : ParamBlock := ⟨1, 2, 3, 4, 5, 6, 7, 8, 0x0A09⟩

/-- The configure sequence, and one operation after it. -/
theorem witness_ConfigureSequenceIsSent :
    ∃ s : State, s.host = Asm.ops (.written 66) (.params 0x01 paramsP5) ++ Asm.ops (.written 56) (.wake 0x01) ++
      Asm.ops (.written 56) (.autoReport 0x01) ++ [⟨0x2000, [], .failed 0⟩] :=
  ⟨{ State.reset with host := [⟨0x4001, paramsP5.body, .written 66⟩, ⟨0x4001, [0x03], .written 56⟩,
      ⟨0x4001, [0x19], .written 56⟩, ⟨0x2000, [], .failed 0⟩] }, rfl⟩

/-! ### Witnesses: the inbound commands -/

theorem witness_OtherCommandsAreIgnored : (0x10 : Byte) ≠ 0x11 ∧ (0x12 : Byte) ≠ 0x11 := by decide

theorem witness_ShortReportGivesNoSample :
    (∀ rest ∈ [([] : List Byte), [0x7F, 0, 0, 0, 0]], rest.length + 1 < 7) ∧ [(0x7F : Byte), 0, 0, 0, 0, 0].length + 1 = 7 := by
  decide

/-- The rest of V1's body, with 6 bytes of group 0x02: the tag selects it and it fits. -/
def restV1 : List Byte := [0x02, 0x00, 0x34, 0x12, 0x00, 0x00, 0x64, 0x00, 0x38, 0xFF, 0x48, 0x26]

/-- The rest of P-D3's body: all seven groups selected, 9 bytes of them there. -/
def restPD3 : List Byte := [0x7F, 0, 1, 2, 3, 4, 0, 1, 2, 3, 4, 5, 0, 0, 0]

/-- The shortest body that gives a sample, and one with groups. -/
theorem witness_PresentMaskIsExact : 7 ≤ [(0x7F : Byte), 0, 0, 0, 0, 0].length + 1 ∧ 7 ≤ restPD3.length + 1 := by decide

/-- V1: every selected group fits. -/
theorem witness_TruncationNamesFirstGroup_none :
    7 ≤ restV1.length + 1 ∧ ∀ g : Group, g.selected (tagOf (0x11 :: restV1)) = true →
      groupFits (tagOf (0x11 :: restV1)) (restV1.length + 1) g = true :=
  ⟨by decide, fun g => by cases g <;> decide⟩

/-- P-D3: group 0x02 is selected and does not fit, and group 0x01 before it does. -/
theorem witness_TruncationNamesFirstGroup :
    7 ≤ restPD3.length + 1 ∧ Group.accelGravity.selected (tagOf (0x11 :: restPD3)) = true ∧
      groupFits (tagOf (0x11 :: restPD3)) (restPD3.length + 1) .accelGravity = false ∧
      ∀ h : Group, h.index < Group.accelGravity.index → h.selected (tagOf (0x11 :: restPD3)) = true →
        groupFits (tagOf (0x11 :: restPD3)) (restPD3.length + 1) h = true :=
  ⟨by decide, by decide, by decide, fun h => by cases h <;> decide⟩

/-- A body of seven bytes with tag 0x40: the last group is the first that does not fit. -/
theorem witness_TruncationNamesFirstGroup_last :
    7 ≤ [(0x40 : Byte), 0, 0, 0, 0, 0].length + 1 ∧ Group.euler.selected (tagOf [0x11, 0x40, 0, 0, 0, 0, 0]) = true ∧
      groupFits (tagOf [0x11, 0x40, 0, 0, 0, 0, 0]) 7 .euler = false ∧
      ∀ h : Group, h.index < Group.euler.index → h.selected (tagOf [0x11, 0x40, 0, 0, 0, 0, 0]) = true →
        groupFits (tagOf [0x11, 0x40, 0, 0, 0, 0, 0]) 7 h = true :=
  ⟨by decide, by decide, by decide, fun h => by cases h <;> decide⟩

/-- Group 0x02 is the selected group of V1 and is there; group 0x01 is not selected. -/
theorem witness_AxisGroupsAreDecoded :
    7 ≤ restV1.length + 1 ∧ groupFits (tagOf (0x11 :: restV1)) (restV1.length + 1) .accelGravity = true ∧
      groupFits (tagOf (0x11 :: restV1)) (restV1.length + 1) .accel = false := by decide

/-- A body of exactly 15 bytes holds group 0x10; one byte less does not. -/
theorem witness_EnvironmentGroupIsDecoded :
    7 ≤ ([0x10, 0, 0, 0, 0, 0] ++ List.replicate 8 (0xFF : Byte)).length + 1 ∧
      groupFits (tagOf (0x11 :: ([0x10, 0, 0, 0, 0, 0] ++ List.replicate 8 (0xFF : Byte)))) 15 .environment = true ∧
      groupFits (tagOf (0x11 :: ([0x10, 0, 0, 0, 0, 0] ++ List.replicate 7 (0xFF : Byte)))) 14 .environment = false := by
  decide

/-- A body of exactly 15 bytes holds group 0x20; one byte less does not. -/
theorem witness_QuaternionGroupIsDecoded :
    7 ≤ ([0x20, 0, 0, 0, 0, 0] ++ List.replicate 8 (0xFF : Byte)).length + 1 ∧
      groupFits (tagOf (0x11 :: ([0x20, 0, 0, 0, 0, 0] ++ List.replicate 8 (0xFF : Byte)))) 15 .quaternion = true ∧
      groupFits (tagOf (0x11 :: ([0x20, 0, 0, 0, 0, 0] ++ List.replicate 7 (0xFF : Byte)))) 14 .quaternion = false := by
  decide

/-- Tag low bytes 0x00 and 0x80, and the shortest body that gives a sample, whose record is all defaults. -/
theorem witness_HighTagBitsAndTrailingBytesIgnored :
    (4 ≤ [(0 : Byte), 0, 0, 0].length ∧ (0x00 : Byte) &&& 0x7F = 0x80 &&& 0x7F) ∧
      Reports [0x00, 0x00, 0, 0, 0, 0] State.reset [] Sample.default :=
  ⟨by decide, _, rfl, ⟨rfl, fun _ => rfl, rfl, rfl, rfl, rfl, rfl, rfl⟩, rfl⟩

/-- The extreme raw values, and the least and the greatest binary32 pattern that is compared with. -/
theorem witness_PhysIsFiniteAndSigned : (-8388608 : Int).natAbs ≤ 2 ^ 23 ∧ (0 : Int).natAbs ≤ 2 ^ 23 := by decide

theorem witness_PhysIsNearestTiesToEven :
    (8388607 : Int).natAbs ≤ 2 ^ 23 ∧ (0 : F32).toNat < 0x7F800000 ∧ (0x7F7FFFFF : F32).toNat < 0x7F800000 := by decide

/-! ### Witnesses: encodings and the step -/

theorem witness_DecodeInvertsEncode :
    (Instr.cmdSensorReport (List.replicate 72 0xFF)).wellFormed = true ∧
      (Instr.cmdOtherInbound 0x12 (List.replicate 72 0xFF)).wellFormed = true ∧
      (Instr.send 0xFF (List.replicate 40 0)).wellFormed = true := by decide

/-- A SEND, and a FEED with bytes on the body port that it does not take. -/
theorem witness_HostWordsHaveOneMeaning :
    decode (.host 0x4001 [0x03]) = .ok (.send 0x01 [0x03]) ∧ decode (.host 0x1049 [0x03]) = .ok (.feed 0x49) := by decide

theorem witness_ReservedWordOnlyMarksRefused :
    (State.reset.issue 0x1149 []).host = ⟨0x1149, [], .written 55⟩ :: [] ∧
      decode (.host 0x1149 []) = .error .reservedZ := by decide

/-- A step that sets `refused`, and one that finds it set. -/
theorem witness_RefusedIsNeverCleared :
    (∃ t, step (State.reset.issue 0x0000 []) = .next t ∧ (State.reset.issue 0x0000 []).refused = false ∧ t.refused = true) ∧
      ∃ t, step ({ State.reset with refused := true }.issue 0x2000 []) = .next t :=
  ⟨⟨_, rfl, rfl, rfl⟩, _, rfl⟩

theorem witness_StepRunsDecodedOperation :
    (State.reset.issue 0x4001 [0x03]).host = ⟨0x4001, [0x03], .written 56⟩ :: [] ∧
      decode (.host 0x4001 [0x03]) = .ok (.send 0x01 [0x03]) := by decide

theorem witness_StepWithoutOperationChangesNothing : State.reset.host = [] := rfl

end Sys2Proof.Tests
end

section
/-! SUPPORT. Binary32 rounding (R11, R166) in natural numbers, and what one step runs (R12), with the obligations O52 and O58. -/

namespace Sys2Proof.Machine

/-! ### Rounding to an integer, ties to even -/

/-- Only the ratio of `n` and `d` counts. -/
theorem roundHalfEven_mul_left {k : Nat} (n d : Nat) (hk : 0 < k) :
    roundHalfEven (k * n) (k * d) = roundHalfEven n d := by
  have hmod : 2 * (k * (n % d)) = k * (2 * (n % d)) := Nat.mul_left_comm ..
  simp only [roundHalfEven, Nat.mul_div_mul_left _ _ hk, Nat.mul_mod_mul_left, hmod, Nat.mul_lt_mul_left hk,
    Nat.mul_right_inj hk.ne']

theorem div_le_roundHalfEven (n d : Nat) : n / d ≤ roundHalfEven n d := by
  simp only [roundHalfEven]
  split
  · exact Nat.le_succ _
  · exact le_rfl

theorem roundHalfEven_le (n d : Nat) : roundHalfEven n d ≤ n / d + 1 := by
  simp only [roundHalfEven]
  split
  · exact le_rfl
  · exact Nat.le_succ _

/-- The rounded quotient is at most half a unit off, and where it is half a unit off it is even. -/
theorem roundHalfEven_error (n : Nat) {d : Nat} (hd : 0 < d) :
    2 * ((n : Int) - (roundHalfEven n d * d : Nat)).natAbs ≤ d ∧
    (2 * ((n : Int) - (roundHalfEven n d * d : Nat)).natAbs = d → roundHalfEven n d % 2 = 0) := by
  have hdiv : n / d * d + n % d = n := Nat.div_add_mod' n d
  have hlt : n % d < d := Nat.mod_lt n hd
  simp only [roundHalfEven]
  split
  next hup => rw [Nat.succ_mul (n / d) d]; omega
  next hdown => omega

theorem multiples_apart (d : Nat) {a b : Nat} (h : a ≠ b) : a * d + d ≤ b * d ∨ b * d + d ≤ a * d := by
  rw [← Nat.succ_mul, ← Nat.succ_mul]
  exact h.lt_or_gt.imp (Nat.mul_le_mul_right d) (Nat.mul_le_mul_right d)

/-- No multiple of `d` is nearer to `n` than the rounded one, and one equally near leaves it even: two multiples are at least
`d` apart. -/
theorem roundHalfEven_nearest (n : Nat) {d : Nat} (hd : 0 < d) (z : Nat) :
    ((n : Int) - (roundHalfEven n d * d : Nat)).natAbs ≤ ((n : Int) - (z * d : Nat)).natAbs ∧
    (((n : Int) - (roundHalfEven n d * d : Nat)).natAbs = ((n : Int) - (z * d : Nat)).natAbs →
      z ≠ roundHalfEven n d → roundHalfEven n d % 2 = 0) := by
  obtain ⟨herr, htie⟩ := roundHalfEven_error n hd
  rcases eq_or_ne z (roundHalfEven n d) with rfl | hne
  · exact ⟨le_rfl, fun _ h => absurd rfl h⟩
  · have hapart := multiples_apart d hne
    omega

/-! ### The values of the binary32 patterns -/

/-- The unit in the last place of the pattern `t`, as an exponent of 2 over 2^-149. -/
def patternUnit (t : Nat) : Nat := t / 2 ^ 23 - 1

/-- The significand of the pattern `t`, with the leading bit that a normal value leaves out. -/
def patternSignificand (t : Nat) : Nat := t - patternUnit t * 2 ^ 23

/-- The value of the pattern `t` in units of 2^-149. -/
def patternValue (t : Nat) : Nat := patternSignificand t * 2 ^ patternUnit t

theorem patternSignificand_lt (t : Nat) : patternSignificand t < 2 ^ 24 := by
  unfold patternSignificand patternUnit
  omega

theorem pattern_normal (t : Nat) : patternUnit t = 0 ∨ 2 ^ 23 ≤ patternSignificand t := by
  unfold patternSignificand patternUnit
  omega

theorem patternUnit_add_significand (t : Nat) : patternUnit t * 2 ^ 23 + patternSignificand t = t := by
  unfold patternSignificand patternUnit
  omega

/-- A pattern without its sign is worth what the model's `magnitude149` says. -/
theorem magnitude149_eq_patternValue {y : F32} (hy : y.toNat < 2 ^ 31) : magnitude149 y = patternValue y.toNat := by
  have hexp : (y.extractLsb' 23 8).toNat = y.toNat / 2 ^ 23 := by
    rw [BitVec.extractLsb'_toNat, Nat.shiftRight_eq_div_pow]
    omega
  have hfrac : (y.extractLsb' 0 23).toNat = y.toNat % 2 ^ 23 := by
    rw [BitVec.extractLsb'_toNat, Nat.shiftRight_zero]
  simp only [magnitude149, hexp, hfrac, patternValue]
  split
  next hsub =>
    have hu : patternUnit y.toNat = 0 := by unfold patternUnit; omega
    simp [patternSignificand, hu]
    omega
  next hnorm =>
    have hs : patternSignificand y.toNat = 2 ^ 23 + y.toNat % 2 ^ 23 := by
      unfold patternSignificand patternUnit
      omega
    rw [hs, patternUnit]

/-- A significand `n` in units of `2 ^ u` has the pattern `u * 2 ^ 23 + n`; `n = 2 ^ 24` carries into the exponent field. -/
theorem patternValue_of_significand {u n : Nat} (hle : n ≤ 2 ^ 24) (hnorm : u = 0 ∨ 2 ^ 23 ≤ n) :
    patternValue (u * 2 ^ 23 + n) = n * 2 ^ u := by
  rcases hle.eq_or_lt with rfl | hlt
  · have hu : patternUnit (u * 2 ^ 23 + 2 ^ 24) = u + 1 := by unfold patternUnit; omega
    have hs : patternSignificand (u * 2 ^ 23 + 2 ^ 24) = 2 ^ 23 := by unfold patternSignificand; omega
    rw [patternValue, hu, hs, pow_succ]
    omega
  · have hu : patternUnit (u * 2 ^ 23 + n) = u := by unfold patternUnit; omega
    have hs : patternSignificand (u * 2 ^ 23 + n) = n := by unfold patternSignificand; omega
    rw [patternValue, hu, hs]

/-- The next pattern is worth one unit in the last place more. -/
theorem patternValue_succ (t : Nat) : patternValue (t + 1) = patternValue t + 2 ^ patternUnit t := by
  have hlt := patternSignificand_lt t
  have hnorm := pattern_normal t
  calc patternValue (t + 1)
      = patternValue (patternUnit t * 2 ^ 23 + (patternSignificand t + 1)) := by
        rw [← Nat.add_assoc, patternUnit_add_significand]
    _ = (patternSignificand t + 1) * 2 ^ patternUnit t := patternValue_of_significand (by omega) (by omega)
    _ = patternValue t + 2 ^ patternUnit t := Nat.succ_mul ..

theorem patternValue_strictMono : StrictMono patternValue :=
  strictMono_nat_of_lt_succ fun t => by
    rw [patternValue_succ]
    exact Nat.lt_add_of_pos_right (Nat.two_pow_pos _)

/-- Different patterns without a sign have different values. -/
theorem magnitude149_injective {x y : F32} (hx : x.toNat < 2 ^ 31) (hy : y.toNat < 2 ^ 31)
    (h : magnitude149 x = magnitude149 y) : x = y := by
  rw [magnitude149_eq_patternValue hx, magnitude149_eq_patternValue hy] at h
  exact BitVec.eq_of_toNat_eq (patternValue_strictMono.injective h)

/-! ### The pattern of a rounded magnitude -/

/-- The unit that `P` is rounded to. -/
def roundUnit (P : Nat) : Nat := Nat.log2 P - 23

/-- The significand of `P` in its unit, ties to even. -/
def roundSignificand (P : Nat) : Nat := roundHalfEven P (2 ^ roundUnit P)

theorem roundSignificand_le (P : Nat) : roundSignificand P ≤ 2 ^ 24 := by
  have hP : P < 2 ^ 24 * 2 ^ roundUnit P := by
    rw [← pow_add]
    exact Nat.lt_log2_self.trans_le (Nat.pow_le_pow_right (by decide) (by unfold roundUnit; omega))
  have hquot := Nat.div_lt_of_lt_mul (Nat.mul_comm .. ▸ hP)
  have hround := roundHalfEven_le P (2 ^ roundUnit P)
  unfold roundSignificand
  omega

/-- Above the subnormals, `P` has a full significand in its unit. -/
theorem le_of_roundUnit_ne_zero {P : Nat} (hu : roundUnit P ≠ 0) : 2 ^ 23 * 2 ^ roundUnit P ≤ P := by
  have hlog : 23 + roundUnit P = P.log2 := by unfold roundUnit at *; omega
  have hP : P ≠ 0 := by rintro rfl; exact hu rfl
  rw [← pow_add, hlog]
  exact Nat.log2_self_le hP

theorem roundSignificand_normal (P : Nat) : roundUnit P = 0 ∨ 2 ^ 23 ≤ roundSignificand P := by
  refine or_iff_not_imp_left.mpr fun hu => ?_
  exact ((Nat.le_div_iff_mul_le (Nat.two_pow_pos _)).mpr (le_of_roundUnit_ne_zero hu)).trans (div_le_roundHalfEven ..)

/-- `RNE32` of `P` units of 2^-149 that stay below the overflow. -/
theorem rne32_toNat {P : Nat} (hP : P < 2 ^ 272) :
    (rne32 P (2 ^ 149)).toNat = roundUnit P * 2 ^ 23 + roundSignificand P := by
  have hquot : P * 2 ^ 149 / 2 ^ 149 = P := Nat.mul_div_cancel _ (Nat.two_pow_pos _)
  have hu : roundUnit P ≤ 248 := by
    rcases eq_or_ne P 0 with rfl | hne
    · decide
    · have hlog := (Nat.log2_lt hne).mpr hP
      unfold roundUnit
      omega
  have hn := roundSignificand_le P
  have hround : roundHalfEven (P * 2 ^ 149) (2 ^ 149 * 2 ^ roundUnit P) = roundSignificand P := by
    rw [Nat.mul_comm P, roundHalfEven_mul_left _ _ (Nat.two_pow_pos _), roundSignificand]
  rw [rne32, hquot, ← roundUnit, hround, BitVec.toNat_ofNat]
  omega

theorem rne32_toNat_lt (p q : Nat) : (rne32 p q).toNat < 2 ^ 31 := by
  simp only [rne32, BitVec.toNat_ofNat]
  omega

theorem magnitude149_rne32 {P : Nat} (hP : P < 2 ^ 272) :
    magnitude149 (rne32 P (2 ^ 149)) = roundSignificand P * 2 ^ roundUnit P := by
  rw [magnitude149_eq_patternValue (rne32_toNat_lt ..), rne32_toNat hP,
    patternValue_of_significand (roundSignificand_le P) (roundSignificand_normal P)]

/-- A pattern of a smaller unit than `P` is rounded to lies below `2 ^ 23` of those units. -/
theorem patternValue_lt_of_unit_lt {t u : Nat} (h : patternUnit t < u) : patternValue t < 2 ^ 23 * 2 ^ u :=
  calc patternValue t
      < 2 ^ 24 * 2 ^ patternUnit t := Nat.mul_lt_mul_of_pos_right (patternSignificand_lt t) (Nat.two_pow_pos _)
    _ = 2 ^ 23 * 2 ^ (patternUnit t + 1) := by rw [pow_succ 2 (patternUnit t)]; omega
    _ ≤ 2 ^ 23 * 2 ^ u := Nat.mul_le_mul_left _ (Nat.pow_le_pow_right (by decide) h)

/-- A pattern of no smaller unit is worth a whole number of the units. -/
theorem patternValue_eq_mul_of_le_unit {t u : Nat} (h : u ≤ patternUnit t) : ∃ z, patternValue t = z * 2 ^ u :=
  ⟨patternSignificand t * 2 ^ (patternUnit t - u), by rw [Nat.mul_assoc, pow_sub_mul_pow 2 h, patternValue]⟩

/-- No pattern's value is nearer `P` than the rounded one's, and a different one equally near leaves the significand even. A
pattern of a smaller unit is farther off than the least full significand, which is no nearer than the rounded one. -/
theorem roundSignificand_nearest (P t : Nat) :
    ((P : Int) - (roundSignificand P * 2 ^ roundUnit P : Nat)).natAbs ≤ ((P : Int) - patternValue t).natAbs ∧
    (((P : Int) - (roundSignificand P * 2 ^ roundUnit P : Nat)).natAbs = ((P : Int) - patternValue t).natAbs →
      patternValue t ≠ roundSignificand P * 2 ^ roundUnit P → roundSignificand P % 2 = 0) := by
  have hnear := roundHalfEven_nearest P (Nat.two_pow_pos (roundUnit P))
  rcases Nat.lt_or_ge (patternUnit t) (roundUnit P) with hunit | hunit
  · have hbelow := patternValue_lt_of_unit_lt hunit
    have hfull := le_of_roundUnit_ne_zero (P := P) (by omega)
    have hround := (hnear (2 ^ 23)).1
    unfold roundSignificand
    omega
  · obtain ⟨z, hz⟩ := patternValue_eq_mul_of_le_unit hunit
    obtain ⟨hle, htie⟩ := hnear z
    rw [hz]
    exact ⟨hle, fun heq hne => htie heq fun hzn => hne (hzn ▸ rfl)⟩

/-! ### Physical values -/

/-- The mask of all bits but the sign keeps a pattern that has no sign. -/
theorem and_signMask_of_lt {m : F32} (hm : m.toNat < 2 ^ 31) : m &&& 0x7FFFFFFF = m :=
  BitVec.eq_of_toNat_eq ((Nat.and_two_pow_sub_one_eq_mod m.toNat 31).trans (Nat.mod_eq_of_lt hm))

/-- The mask of all bits but the sign takes a sign away. -/
theorem or_sign_and_signMask (m : F32) : (m ||| 0x80000000) &&& 0x7FFFFFFF = m &&& 0x7FFFFFFF :=
  calc (m ||| 0x80000000) &&& 0x7FFFFFFF
      = m &&& 0x7FFFFFFF ||| 0x80000000 &&& 0x7FFFFFFF := by
        ext i hi
        simp only [BitVec.getElem_and, BitVec.getElem_or, Bool.and_or_distrib_right]
    _ = m &&& 0x7FFFFFFF := BitVec.or_zero

/-- Without its sign, a physical value is the rounded magnitude. -/
theorem phys_and_signMask (raw : Int) (s : F32) :
    phys raw s &&& 0x7FFFFFFF = rne32 (raw.natAbs * magnitude149 s) (2 ^ 149) := by
  simp only [phys]
  split
  · rw [or_sign_and_signMask, and_signMask_of_lt (rne32_toNat_lt ..)]
  · exact and_signMask_of_lt (rne32_toNat_lt ..)

/-- D11's bound: a scale is below 2^100, so that no product of a raw value overflows. -/
theorem product_lt {raw : Int} (k : Config.Scale) (hraw : raw.natAbs ≤ 2 ^ 23) :
    raw.natAbs * magnitude149 k.bits < 2 ^ 272 := by
  have hbits : k.bits.toNat < 0x71800000 := by
    simp only [Config.Scale.bits, BitVec.toNat_ofNat]
    omega
  have hscale : magnitude149 k.bits < 2 ^ 249 := by
    rw [magnitude149_eq_patternValue (by omega)]
    exact patternValue_lt_of_unit_lt (u := 226) (by unfold patternUnit; omega)
  calc raw.natAbs * magnitude149 k.bits
      ≤ 2 ^ 23 * magnitude149 k.bits := Nat.mul_le_mul_right _ hraw
    _ < 2 ^ 23 * 2 ^ 249 := Nat.mul_lt_mul_of_pos_left hscale (by decide)
    _ = 2 ^ 272 := by rw [← pow_add]

/-- Settles O52: rounding to whole units is nearest among all patterns, and different patterns have different values. -/
theorem physIsNearestTiesToEven : Obligations.PhysIsNearestTiesToEven := by
  unfold Obligations.PhysIsNearestTiesToEven
  intro raw k y hraw hy
  have hP := product_lt k hraw
  have hy31 : y.toNat < 2 ^ 31 := by omega
  simp only [phys_and_signMask, ← Nat.cast_mul]
  generalize raw.natAbs * magnitude149 k.bits = P at hP
  obtain ⟨hle, htie⟩ := roundSignificand_nearest P y.toNat
  rw [← magnitude149_eq_patternValue hy31, ← magnitude149_rne32 hP] at hle htie
  refine ⟨hle, fun heq hne => ?_⟩
  have heven := htie heq fun hval => hne (magnitude149_injective hy31 (rne32_toNat_lt ..) hval)
  rw [BitVec.getLsbD, Nat.testBit_zero, rne32_toNat hP, decide_eq_false_iff_not]
  omega

/-! ### One step -/

/-- The step of an operation that decodes. -/
theorem step_eq_exec_take {op : HostOp} {rest : List HostOp} {i : Instr} {s : State} (hhost : s.host = op :: rest)
    (hdec : decode (.host op.word op.port) = .ok i) : step s = exec i (s.take op rest) := by
  simp only [step, hhost, hdec]

/-- Settles O58: taking the operation is what `State.take` does. -/
theorem stepRunsDecodedOperation : Obligations.StepRunsDecodedOperation := by
  unfold Obligations.StepRunsDecodedOperation
  intro op rest i s hhost hdec
  exact step_eq_exec_take hhost hdec

end Sys2Proof.Machine
end

section
/-! SUPPORT. What the instructions keep of the state (R25, R29, R30, R34, R36), with the obligations O2, O14, O15, O17, O24,
O25 and O57. -/

namespace Sys2Proof.Machine

/-! ### What an instruction can do to the state -/

theorem State.emit_nil (s : State) : s.emit [] = s := by
  simp [State.emit]

theorem State.emit_emit (s : State) (es fs : List Event) : (s.emit es).emit fs = s.emit (es ++ fs) := by
  simp [State.emit]

/-- A completed frame appends its events and ends in Abandon (R131). -/
theorem completeFrame_eq_abandon {s t : State} (h : completeFrame s = .next t) : ∃ es, t = (s.emit es).abandon := by
  obtain ⟨_, body, u, -, -, hu, rfl⟩ := completeFrame_eq_next h
  obtain ⟨es, rfl⟩ := payloadDecode_eq_next hu
  exact ⟨_, by rw [State.emit_emit]⟩

/-- The updates that an instruction other than SET_TARGET can make. -/
inductive Update (s : State) : State → Prop where
  | keep {i : Nat} (hi : i < Config.bufCap) (b m : Byte) (st : Fsm) : Update s (s.keep i b m st)
  | goto (st : Fsm) : Update s (s.goto st)
  | emit (es : List Event) : Update s (s.emit es)
  | abandon (es : List Event) : Update s (s.emit es).abandon

theorem update_of_execFeed {b : Byte} {s t : State} (h : execFeed b s = .next t) : Update s t := by
  rcases execFeed_cases h with ⟨-, -, rfl⟩ | ⟨-, -, rfl⟩ | ⟨-, -, rfl⟩ | ⟨-, -, -, rfl⟩ | ⟨-, n, -, hcap, rfl⟩ |
    ⟨-, -, rfl⟩ | ⟨-, code, info, rfl⟩ | ⟨-, -, hcomplete⟩
  · simpa only [State.emit_nil] using Update.emit (s := t) []
  · exact .keep (by decide) ..
  · exact .keep (by decide) ..
  · exact .keep (by decide) ..
  · exact .keep hcap ..
  · exact .goto _
  · exact .abandon _
  · obtain ⟨es, rfl⟩ := completeFrame_eq_abandon hcomplete
    exact .abandon es

/-- An instruction is a SET_TARGET, or makes one of the updates that leave TARGET_ADDR alone. -/
theorem update_of_exec {i : Instr} {s t : State} (h : exec i s = .next t) :
    (∃ v, i = .setTarget v ∧ t = s.setTarget v) ∨ Update s t := by
  rcases exec_cases h with ⟨b, -, hfeed⟩ | ⟨-, rfl⟩ | hset | ⟨es, rfl⟩
  · exact .inr (update_of_execFeed hfeed)
  · exact .inr (by simpa only [State.emit_nil] using Update.abandon (s := s) [])
  · exact .inl hset
  · exact .inr (.emit es)

namespace Update

variable {s t : State}

theorem controlKept (h : Update s t) : ControlKept s t := by
  cases h <;> exact ⟨rfl, rfl, rfl, rfl⟩

theorem out_prefix (h : Update s t) : s.out <+: t.out := by
  cases h with
  | keep => exact List.prefix_rfl
  | goto => exact List.prefix_rfl
  | emit es => exact List.prefix_append s.out es
  | abandon es => exact List.prefix_append s.out es

theorem buf_wf (h : Update s t) (hwf : s.buf.wf = true) : t.buf.wf = true := by
  cases h with
  | keep hi b => exact Memory.wf_write b hwf hi
  | goto => exact hwf
  | emit => exact hwf
  | abandon => exact hwf

end Update

theorem exec_out_prefix {i : Instr} {s t : State} (h : exec i s = .next t) : s.out <+: t.out := by
  rcases update_of_exec h with ⟨v, -, rfl⟩ | hupd
  · exact List.prefix_rfl
  · exact hupd.out_prefix

theorem exec_buf_wf {i : Instr} {s t : State} (h : exec i s = .next t) (hwf : s.buf.wf = true) : t.buf.wf = true := by
  rcases update_of_exec h with ⟨v, -, rfl⟩ | hupd
  · exact hwf
  · exact hupd.buf_wf hwf

theorem exec_refused {i : Instr} {s t : State} (h : exec i s = .next t) : t.refused = s.refused := by
  rcases update_of_exec h with ⟨v, -, rfl⟩ | hupd
  · rfl
  · obtain ⟨-, hrefused, -, -⟩ := hupd.controlKept
    exact hrefused

/-! ### What every step keeps -/

/-- Settles O24: no update takes an event away. -/
theorem outputIsOnlyAppended : Obligations.OutputIsOnlyAppended := by
  unfold Obligations.OutputIsOnlyAppended
  intro s t h
  rcases step_cases h with ⟨-, rfl⟩ | ⟨op, rest, i, -, -, hexec⟩ | ⟨op, rest, e, -, -, rfl⟩
  · exact List.prefix_rfl
  · exact (exec_out_prefix hexec :)
  · exact List.prefix_rfl

/-- Settles O15: the one update that writes `buf` writes inside it. -/
theorem stepKeepsBufferCanonical : Obligations.StepKeepsBufferCanonical := by
  unfold Obligations.StepKeepsBufferCanonical
  intro s t hwf h
  rcases step_cases h with ⟨-, rfl⟩ | ⟨op, rest, i, -, -, hexec⟩ | ⟨op, rest, e, -, -, rfl⟩
  · exact hwf
  · exact exec_buf_wf hexec hwf
  · exact hwf

/-- Settles O25: every other instruction's update keeps TARGET_ADDR. -/
theorem onlySetTargetWritesTarget : Obligations.OnlySetTargetWritesTarget := by
  unfold Obligations.OnlySetTargetWritesTarget
  intro i s t h hne
  rcases update_of_exec h with ⟨v, rfl, rfl⟩ | hupd
  · rfl
  · obtain ⟨htarget, -, -, -⟩ := hupd.controlKept
    exact absurd htarget hne

/-- Settles O57: no instruction writes `refused`; the step of a reserved word sets it. -/
theorem refusedIsNeverCleared : Obligations.RefusedIsNeverCleared := by
  unfold Obligations.RefusedIsNeverCleared
  intro s t h
  rcases step_cases h with ⟨-, rfl⟩ | ⟨op, rest, i, -, -, hexec⟩ | ⟨op, rest, e, hhost, hdec, rfl⟩
  · exact ⟨id, fun hfalse htrue => absurd htrue (by simp [hfalse])⟩
  · have hkept : t.refused = s.refused := (exec_refused hexec :)
    exact ⟨hkept.trans, fun hfalse htrue => absurd htrue (by simp [hkept, hfalse])⟩
  · exact ⟨fun _ => rfl, fun _ _ => ⟨op, rest, e, hhost, hdec⟩⟩

/-! ### The bytes held, `buf[0..idx)` -/

/-- The bytes held are those that BufRead answers. -/
theorem State.bufReadRange_idx_eq_ok {s : State} {held : List Byte} :
    s.bufReadRange 0 s.idx = .ok held ↔ held.length = s.idx ∧ ∀ k, s.bufRead k = held[k]? := by
  rw [State.bufReadRange_eq_ok]
  refine and_congr_right fun hlen => ⟨fun h k => ?_, fun h k hk => ?_⟩
  · rcases Nat.lt_or_ge k held.length with hk | hk
    · simpa [hk] using h k hk
    · simp [State.bufRead, ← hlen, hk]
  · simp [h, hk]

/-- A byte kept at `idx` stands after the bytes held. -/
theorem State.bufReadRange_keep {s : State} {held : List Byte} (h : s.bufReadRange 0 s.idx = .ok held) (b m : Byte)
    (st : Fsm) : (s.keep held.length b m st).bufReadRange 0 (held.length + 1) = .ok (held ++ [b]) := by
  obtain ⟨hlen, hread⟩ := State.bufReadRange_idx_eq_ok.mp h
  rw [← State.keep_idx s held.length b m st, State.bufReadRange_idx_eq_ok]
  refine ⟨by simp, fun k => ?_⟩
  rcases Nat.lt_trichotomy k held.length with hk | rfl | hk
  · have hlt : k < s.idx := hlen ▸ hk
    rw [List.getElem?_append_left hk, ← hread k, State.bufRead_of_lt hlt, State.bufRead_of_lt (Nat.lt_succ_of_lt hk),
      State.keep_buf, Memory.read_write_other _ b (Nat.ne_of_lt hk)]
  · rw [List.getElem?_concat_length, State.bufRead_of_lt (Nat.lt_succ_self _), State.keep_buf, Memory.read_write_same]
  · rw [List.getElem?_eq_none (by simpa using hk)]
    exact if_neg (Nat.not_lt.mpr hk)

/-- The body of a frame held is read from index 3 on (R28, R80). -/
theorem State.bufReadRange_body {s : State} {m a n : Byte} {body : List Byte}
    (h : s.bufReadRange 0 s.idx = .ok (m :: a :: n :: body)) : s.bufReadRange 3 body.length = .ok body := by
  obtain ⟨-, hread⟩ := State.bufReadRange_idx_eq_ok.mp h
  refine State.bufReadRange_eq_ok.mpr ⟨rfl, fun k hk => ?_⟩
  rw [hread, Nat.add_comm 3 k]
  exact List.getElem?_eq_getElem hk

end Sys2Proof.Machine

namespace Sys2Proof

open Machine

/-! ### The invariant of R29 -/

/-- A byte kept in Data: the last body byte fills R29's row of Checksum, an earlier one that of Data. -/
theorem AttemptInv.data_append {a n m : Byte} {body : List Byte} (ha : a ≠ Config.broadcast) (hn : 1 ≤ n.toNat)
    (hmax : n.toNat ≤ Config.maxBody) (hlt : body.length < n.toNat) (hm : m = byteSum (a :: n :: body)) (b : Byte) :
    AttemptInv (if body.length + 3 + 1 < n.toNat + 3 then .data else .checksum) (m + b)
      (Config.startMarker :: a :: n :: body ++ [b]) := by
  have hlen : (body ++ [b]).length = body.length + 1 := List.length_append
  have hsum : m + b = byteSum (a :: n :: (body ++ [b])) := by
    simp [hm, byteSum_append, BitVec.add_assoc]
  split
  next hmore => exact ⟨a, n, body ++ [b], rfl, ha, hn, hmax, by omega, hsum⟩
  next hlast => exact ⟨a, n, body ++ [b], rfl, ha, hn, hmax, by omega, hsum⟩

namespace FrameInv

variable {s t : State}

/-- The invariant speaks of the FrameDecoder's registers alone. -/
theorem of_eq (h : FrameInv s) (hstate : t.state = s.state) (hbuf : t.buf = s.buf) (hidx : t.idx = s.idx)
    (hsum : t.sum = s.sum) : FrameInv t := by
  obtain ⟨hwf, held, hheld, hinv⟩ := h
  refine ⟨hbuf ▸ hwf, held, ?_, ?_⟩
  · rw [State.bufReadRange_congr hbuf hidx, hidx, hheld]
  · rwa [hstate, hsum]

theorem emit (h : FrameInv s) (es : List Event) : FrameInv (s.emit es) := h.of_eq rfl rfl rfl rfl

theorem setTarget (h : FrameInv s) (v : Byte) : FrameInv (s.setTarget v) := h.of_eq rfl rfl rfl rfl

theorem take (h : FrameInv s) (op : HostOp) (rest : List HostOp) : FrameInv (s.take op rest) := h.of_eq rfl rfl rfl rfl

theorem refuse (h : FrameInv s) : FrameInv s.refuse := h.of_eq rfl rfl rfl rfl

theorem abandon (hwf : s.buf.wf = true) : FrameInv s.abandon := ⟨hwf, [], rfl, rfl⟩

/-- Keeping a byte at `idx` needs R29's row of the next state for the bytes held and the new one. -/
theorem keep {held : List Byte} {i : Nat} {b m : Byte} {st : Fsm} (hwf : s.buf.wf = true)
    (hheld : s.bufReadRange 0 s.idx = .ok held) (hlen : held.length = i) (hcap : i < Config.bufCap)
    (hinv : AttemptInv st m (held ++ [b])) : FrameInv (s.keep i b m st) := by
  subst hlen
  exact ⟨Memory.wf_write b hwf hcap, held ++ [b], State.bufReadRange_keep hheld b m st, hinv⟩

/-- In End the address, the length byte and the body of at least one byte can be read, as R131 and R132 do. -/
theorem frame_read (h : FrameInv s) (hs : s.state = .frameEnd) :
    ∃ a n c rest, s.bufRead 1 = some a ∧ s.bufRead 2 = some n ∧ s.bufReadRange 3 n.toNat = .ok (c :: rest) := by
  obtain ⟨-, held, hheld, hinv⟩ := h
  rw [hs] at hinv
  obtain ⟨a, n, body, rfl, -, hn, -, hlen, -⟩ := hinv
  obtain ⟨-, hread⟩ := State.bufReadRange_idx_eq_ok.mp hheld
  have hbody := State.bufReadRange_body hheld
  rw [hlen] at hbody
  cases body with
  | nil => simp [← hlen] at hn
  | cons c rest => exact ⟨a, n, c, rest, hread 1, hread 2, hbody⟩

theorem execFeed {b : Byte} (hinv : FrameInv s) (h : execFeed b s = .next t) : FrameInv t := by
  obtain ⟨hwf, held, hheld, hatt⟩ := hinv
  rcases execFeed_cases h with ⟨-, -, rfl⟩ | ⟨hs, rfl, rfl⟩ | ⟨hs, hb, rfl⟩ | ⟨hs, hb, hmax, rfl⟩ |
    ⟨hs, n, hn, hcap, rfl⟩ | ⟨hs, -, rfl⟩ | ⟨-, code, info, rfl⟩ | ⟨-, -, hcomplete⟩
  · exact ⟨hwf, held, hheld, hatt⟩
  · rw [hs] at hatt
    obtain rfl := hatt
    exact .keep hwf hheld rfl (by decide) ⟨rfl, rfl⟩
  · rw [hs] at hatt
    obtain ⟨rfl, hsum⟩ := hatt
    exact .keep hwf hheld rfl (by decide) ⟨b, rfl, hb, by simp [hsum]⟩
  · rw [hs] at hatt
    obtain ⟨a, rfl, ha, hsum⟩ := hatt
    have hpos : 1 ≤ b.toNat := Nat.one_le_iff_ne_zero.mpr fun h0 => hb (BitVec.eq_of_toNat_eq h0)
    exact .keep hwf hheld rfl (by decide) ⟨a, b, [], rfl, ha, hpos, hmax, hpos, by simp [hsum]⟩
  · rw [hs] at hatt
    obtain ⟨a, n', body, rfl, ha, hpos, hmax, hlt, hsum⟩ := hatt
    obtain ⟨hlen, hread⟩ := State.bufReadRange_idx_eq_ok.mp hheld
    obtain rfl : n' = n := Option.some.inj ((hread 2).symm.trans hn)
    rw [← hlen]
    exact .keep hwf hheld rfl (hlen ▸ hcap) (.data_append ha hpos hmax hlt hsum b)
  · rw [hs] at hatt
    exact ⟨hwf, held, (State.bufReadRange_congr (s := s) (t := s.goto .frameEnd) rfl rfl 0 s.idx).trans hheld, hatt⟩
  · exact abandon hwf
  · obtain ⟨es, rfl⟩ := completeFrame_eq_abandon hcomplete
    exact abandon hwf

theorem exec {i : Instr} (hinv : FrameInv s) (h : exec i s = .next t) : FrameInv t := by
  rcases exec_cases h with ⟨b, -, hfeed⟩ | ⟨-, rfl⟩ | ⟨v, -, rfl⟩ | ⟨es, rfl⟩
  · exact hinv.execFeed hfeed
  · exact abandon hinv.1
  · exact hinv.setTarget v
  · exact hinv.emit es

end FrameInv

/-- Settles O2: at reset no byte is held. -/
theorem resetMeetsFrameInvariant : Obligations.ResetMeetsFrameInvariant := by
  unfold Obligations.ResetMeetsFrameInvariant
  exact ⟨Memory.wf_reset, [], rfl, rfl⟩

/-- Settles O14: R29 is kept transition by transition, and taking an operation does not touch the registers it names. -/
theorem stepKeepsFrameInvariant : Obligations.StepKeepsFrameInvariant := by
  unfold Obligations.StepKeepsFrameInvariant
  intro s t hinv h
  rcases step_cases h with ⟨-, rfl⟩ | ⟨op, rest, i, -, -, hexec⟩ | ⟨op, rest, e, -, -, rfl⟩
  · exact hinv
  · exact (hinv.take op rest).exec hexec
  · exact (hinv.take op rest).refuse

/-! ### Under the invariant a FEED completes -/

/-- A frame whose length byte and body are read completes (R131). -/
theorem completeFrame_completes {s : State} {n c : Byte} {rest : List Byte} (hn : s.bufRead 2 = some n)
    (hbody : s.bufReadRange 3 n.toNat = .ok (c :: rest)) : ∃ t, completeFrame s = .next t := by
  simp only [completeFrame, hn, hbody, payloadDecode_cons]
  exact ⟨_, rfl⟩

theorem reject_completes (code : DiagCode) (info : List Byte) (s : State) : ∃ t, reject code info s = .next t :=
  ⟨_, reject_eq code info s⟩

theorem keepByte_completes {i : Nat} (b m : Byte) (st : Fsm) (s : State) (h : i < Config.bufCap) :
    ∃ t, keepByte i b m st s = .next t :=
  ⟨_, keepByte_next b m st s h⟩

theorem FrameInv.feedData_completes {s : State} (hinv : FrameInv s) (hs : s.state = .data) (b : Byte) :
    ∃ t, feedData b s = .next t := by
  obtain ⟨-, held, hheld, hatt⟩ := hinv
  rw [hs] at hatt
  obtain ⟨a, n, body, rfl, -, -, hmax, hlt, -⟩ := hatt
  obtain ⟨hlen, hread⟩ := State.bufReadRange_idx_eq_ok.mp hheld
  have hcap : s.idx < Config.bufCap := by
    simp only [List.length_cons] at hlen
    simp only [Config.bufCap]
    omega
  have hn : s.bufRead 2 = some n := hread 2
  simp only [feedData, hn]
  exact keepByte_completes _ _ _ _ hcap

theorem FrameInv.feedEnd_completes {s : State} (hinv : FrameInv s) (hs : s.state = .frameEnd) (b : Byte) :
    ∃ t, feedEnd b s = .next t := by
  obtain ⟨a, n, c, rest, ha, hn, hbody⟩ := hinv.frame_read hs
  have hcomplete := completeFrame_completes hn hbody
  simp only [feedEnd, ha]
  split
  · exact reject_completes ..
  · split
    · exact hcomplete
    · split
      · exact hcomplete
      · exact reject_completes ..

/-- No FEED faults under the invariant (R253). -/
theorem FrameInv.execFeed_completes {s : State} (hinv : FrameInv s) (b : Byte) : ∃ t, Machine.execFeed b s = .next t := by
  unfold Machine.execFeed
  split
  next hs =>
    unfold feedAwaitStart
    split
    · exact keepByte_completes _ _ _ _ (by decide)
    · exact ⟨_, rfl⟩
  next hs =>
    unfold feedAddress
    split
    · exact reject_completes ..
    · exact keepByte_completes _ _ _ _ (by decide)
  next hs =>
    unfold feedLength
    split
    · exact reject_completes ..
    · exact keepByte_completes _ _ _ _ (by decide)
  next hs => exact hinv.feedData_completes hs b
  next hs =>
    unfold feedChecksum
    split
    · exact ⟨_, rfl⟩
    · exact reject_completes ..
  next hs => exact hinv.feedEnd_completes hs b

/-- Every instruction completes under the invariant (R253). -/
theorem FrameInv.exec_completes {s : State} (hinv : FrameInv s) (i : Instr) : ∃ t, Machine.exec i s = .next t := by
  cases i with
  | feed b => exact hinv.execFeed_completes b
  | reset => exact ⟨_, rfl⟩
  | setTarget v => exact ⟨_, rfl⟩
  | send a b => exact ⟨_, transmit_eq a b s⟩
  | cmdSensorReport rest => exact ⟨_, rfl⟩
  | cmdParams a p => exact ⟨_, transmit_eq a p.body s⟩
  | cmdWake a => exact ⟨_, transmit_eq a [Config.cmdWake] s⟩
  | cmdAutoreport a => exact ⟨_, transmit_eq a [Config.cmdAutoreport] s⟩
  | cmdOtherInbound c rest => exact ⟨_, rfl⟩

/-! ### Bytes of `buf` at or above `idx` -/

/-- Two outcomes that differ at most in bytes of `buf` at or above `idx`. -/
inductive SameOutcome : Outcome → Outcome → Prop where
  | next {s t : State} (h : SameBelowIdx s t) : SameOutcome (.next s) (.next t)
  | fault (r : Fault) : SameOutcome (.fault r) (.fault r)

namespace SameBelowIdx

variable {s t : State}

theorem state_eq (h : SameBelowIdx s t) : t.state = s.state := (congrArg State.state h.1 :)

theorem idx_eq (h : SameBelowIdx s t) : t.idx = s.idx := (congrArg State.idx h.1 :)

theorem sum_eq (h : SameBelowIdx s t) : t.sum = s.sum := (congrArg State.sum h.1 :)

theorem targetAddr_eq (h : SameBelowIdx s t) : t.targetAddr = s.targetAddr := (congrArg State.targetAddr h.1 :)

theorem txPort_eq (h : SameBelowIdx s t) : t.txPort = s.txPort := (congrArg State.txPort h.1 :)

/-- BufRead answers nothing at or above `idx` (R61), so that it cannot tell the states apart. -/
theorem bufRead_eq (h : SameBelowIdx s t) (i : Nat) : t.bufRead i = s.bufRead i := by
  unfold State.bufRead
  rw [h.idx_eq]
  split
  next hi => exact h.2 i hi
  next => rfl

theorem bufReadRange_eq (h : SameBelowIdx s t) (i n : Nat) : t.bufReadRange i n = s.bufReadRange i n := by
  induction n generalizing i with
  | zero => rfl
  | succ n ih => simp only [State.bufReadRange, h.bufRead_eq, ih]

theorem emit (h : SameBelowIdx s t) (es : List Event) : SameBelowIdx (s.emit es) (t.emit es) :=
  ⟨congrArg (State.emit · es) h.1, h.2⟩

theorem goto (h : SameBelowIdx s t) (st : Fsm) : SameBelowIdx (s.goto st) (t.goto st) :=
  ⟨congrArg (State.goto · st) h.1, h.2⟩

theorem setTarget (h : SameBelowIdx s t) (v : Byte) : SameBelowIdx (s.setTarget v) (t.setTarget v) :=
  ⟨congrArg (State.setTarget · v) h.1, h.2⟩

theorem abandon (h : SameBelowIdx s t) : SameBelowIdx s.abandon t.abandon :=
  ⟨congrArg State.abandon h.1, fun i hi => absurd hi (Nat.not_lt_zero i)⟩

/-- A byte kept at or below `idx` leaves no byte between the agreeing ones and the new `idx`. -/
theorem keep (h : SameBelowIdx s t) {i : Nat} (hi : i ≤ s.idx) (b m : Byte) (st : Fsm) :
    SameBelowIdx (s.keep i b m st) (t.keep i b m st) := by
  refine ⟨congrArg (State.keep · i b m st) h.1, fun k hk => ?_⟩
  simp only [State.keep_buf, State.keep_idx, Memory.read_write] at hk ⊢
  split
  · rfl
  · exact h.2 k (by omega)

theorem keepByte (h : SameBelowIdx s t) {i : Nat} (hi : i ≤ s.idx) (b m : Byte) (st : Fsm) :
    SameOutcome (keepByte i b m st s) (keepByte i b m st t) := by
  unfold Machine.keepByte
  split
  · exact .next (h.keep hi b m st)
  · exact .fault _

theorem reject (h : SameBelowIdx s t) (code : DiagCode) (info : List Byte) :
    SameOutcome (reject code info s) (reject code info t) :=
  .next (h.emit _).abandon

theorem payloadDecode (h : SameBelowIdx s t) (body : List Byte) :
    SameOutcome (payloadDecode body s) (payloadDecode body t) := by
  cases body with
  | nil => exact .fault .emptyBody
  | cons c rest =>
    rw [payloadDecode_cons, payloadDecode_cons]
    exact .next (h.emit _)

theorem transmit (h : SameBelowIdx s t) (a : Byte) (b : List Byte) : SameOutcome (transmit a b s) (transmit a b t) := by
  rw [transmit_eq, transmit_eq, h.txPort_eq]
  exact .next (h.emit _)

end SameBelowIdx

theorem SameOutcome.thenAbandon {o p : Outcome} (h : SameOutcome o p) : SameOutcome (thenAbandon o) (thenAbandon p) := by
  cases h with
  | next h => exact .next h.abandon
  | fault r => exact .fault r

namespace SameBelowIdx

variable {s t : State}

theorem feedAwaitStart (h : SameBelowIdx s t) (b : Byte) : SameOutcome (feedAwaitStart b s) (feedAwaitStart b t) := by
  unfold Machine.feedAwaitStart
  split
  · exact h.keepByte (Nat.zero_le _) ..
  · exact .next h

theorem feedAddress (h : SameBelowIdx s t) (hidx : 1 ≤ s.idx) (b : Byte) :
    SameOutcome (feedAddress b s) (feedAddress b t) := by
  unfold Machine.feedAddress
  rw [h.sum_eq]
  split
  · exact h.reject ..
  · exact h.keepByte hidx ..

theorem feedLength (h : SameBelowIdx s t) (hidx : 2 ≤ s.idx) (b : Byte) :
    SameOutcome (feedLength b s) (feedLength b t) := by
  unfold Machine.feedLength
  rw [h.sum_eq]
  split
  · exact h.reject ..
  · exact h.keepByte hidx ..

theorem feedData (h : SameBelowIdx s t) (b : Byte) : SameOutcome (feedData b s) (feedData b t) := by
  unfold Machine.feedData
  rw [h.bufRead_eq, h.idx_eq, h.sum_eq]
  split
  · exact .fault _
  · exact h.keepByte le_rfl ..

theorem feedChecksum (h : SameBelowIdx s t) (b : Byte) : SameOutcome (feedChecksum b s) (feedChecksum b t) := by
  unfold Machine.feedChecksum
  rw [h.sum_eq]
  split
  · exact .next (h.goto _)
  · exact h.reject ..

theorem completeFrame (h : SameBelowIdx s t) : SameOutcome (completeFrame s) (completeFrame t) := by
  unfold Machine.completeFrame
  simp only [h.bufRead_eq, h.bufReadRange_eq]
  split
  · exact .fault _
  · split
    · exact .fault _
    · exact ((h.emit _).payloadDecode _).thenAbandon

theorem feedEnd (h : SameBelowIdx s t) (b : Byte) : SameOutcome (feedEnd b s) (feedEnd b t) := by
  unfold Machine.feedEnd
  rw [h.targetAddr_eq, h.bufRead_eq]
  split
  · exact h.reject ..
  · split
    · exact h.completeFrame
    · split
      · exact .fault _
      · split
        · exact h.completeFrame
        · exact h.reject ..

end SameBelowIdx

theorem FrameInv.idx_of_address {s : State} (hinv : FrameInv s) (hs : s.state = .address) : s.idx = 1 := by
  obtain ⟨-, held, hheld, hatt⟩ := hinv
  rw [hs] at hatt
  obtain ⟨rfl, -⟩ := hatt
  exact (State.bufReadRange_eq_ok.mp hheld).1.symm

theorem FrameInv.idx_of_length {s : State} (hinv : FrameInv s) (hs : s.state = .length) : s.idx = 2 := by
  obtain ⟨-, held, hheld, hatt⟩ := hinv
  rw [hs] at hatt
  obtain ⟨a, rfl, -, -⟩ := hatt
  exact (State.bufReadRange_eq_ok.mp hheld).1.symm

theorem SameBelowIdx.execFeed {s t : State} (h : SameBelowIdx s t) (hinv : FrameInv s) (b : Byte) :
    SameOutcome (execFeed b s) (execFeed b t) := by
  unfold Machine.execFeed
  rw [h.state_eq]
  split
  next => exact h.feedAwaitStart b
  next hs => exact h.feedAddress (hinv.idx_of_address hs).ge b
  next hs => exact h.feedLength (hinv.idx_of_length hs).ge b
  next => exact h.feedData b
  next => exact h.feedChecksum b
  next => exact h.feedEnd b

theorem SameBelowIdx.exec {s t : State} (h : SameBelowIdx s t) (hinv : FrameInv s) (i : Instr) :
    SameOutcome (exec i s) (exec i t) := by
  cases i with
  | feed b => exact h.execFeed hinv b
  | reset => exact .next h.abandon
  | setTarget v => exact .next (h.setTarget v)
  | send a b => exact h.transmit a b
  | cmdSensorReport rest => exact .next (h.emit _)
  | cmdParams a p => exact h.transmit a p.body
  | cmdWake a => exact h.transmit a [Config.cmdWake]
  | cmdAutoreport a => exact h.transmit a [Config.cmdAutoreport]
  | cmdOtherInbound c rest => exact .next (h.emit _)

/-- Settles O17: under the invariant an instruction completes, and what it reads of `buf` lies below `idx`. -/
theorem bufferAboveIdxIsUnobservable : Obligations.BufferAboveIdxIsUnobservable := by
  unfold Obligations.BufferAboveIdxIsUnobservable
  intro i s t hinv _ h
  obtain ⟨s', hs'⟩ := hinv.exec_completes i
  have hsame := h.exec hinv i
  rw [hs'] at hsame ⊢
  generalize exec i t = o at hsame
  cases hsame with
  | next hnext => exact ⟨s', _, rfl, rfl, hnext⟩

end Sys2Proof
end

section
/-! SUPPORT. What the FrameDecoder and the PacketBuilder share (R73, R74, R77), the outbound frame (R64, R202) and the stops of
FEED (R61), with the obligations O11, O22, O35 and O36. -/

namespace Sys2Proof.Machine

/-! ### The outbound frame (R202) -/

theorem build_length (a : Byte) (b : List Byte) : (build a b).length = 55 + b.length := by
  simp [build, frameBytes, Config.preambleLen, Config.sync]
  omega

/-- The preamble is zeros. -/
theorem build_preamble {i : Nat} (a : Byte) (b : List Byte) (hi : i < 46) : (build a b)[i]? = some 0 := by
  rw [build, List.append_assoc, List.getElem?_append_left (by simpa [Config.preambleLen] using hi)]
  exact List.getElem?_replicate_of_lt hi

/-- After the preamble stand the synchronisation pattern, the frame's head, its body and its tail. -/
theorem build_after_preamble (a : Byte) (b : List Byte) (i : Nat) :
    (build a b)[46 + i]? =
      ([0x00, 0xFF, 0x00, 0xFF, 0x49, a, lenByte b] ++ (b ++ [checksum a b, 0x4D]))[i]? := by
  rw [build, List.append_assoc, List.getElem?_append_right (by simp [Config.preambleLen])]
  simp [Config.preambleLen, Config.sync, frameBytes, Config.startMarker, Config.endMarker]

/-- The body and the tail stand from index 53 on. -/
theorem build_body_and_tail (a : Byte) (b : List Byte) (i : Nat) :
    (build a b)[53 + i]? = (b ++ [checksum a b, 0x4D])[i]? := by
  rw [show 53 + i = 46 + (7 + i) by omega, build_after_preamble, List.getElem?_append_right (by simp)]
  simp

/-- Settles O36: the frame is cut after its preamble and before its body. -/
theorem outboundFrameLayout : Obligations.OutboundFrameLayout := by
  unfold Obligations.OutboundFrameLayout
  intro a b
  have hhead := build_after_preamble a b
  have htail := build_body_and_tail a b
  refine ⟨build_length a b, fun i => build_preamble a b, hhead 0, hhead 1, hhead 2, hhead 3, hhead 4, hhead 5, hhead 6,
    fun i hi => ?_, ?_, ?_⟩
  · rw [htail, List.getElem?_append_left hi]
  · rw [htail]
    simp
  · rw [show 54 + b.length = 53 + (b.length + 1) by omega, htail]
    simp

/-! ### Where FEED stops (R61) -/

theorem exec_feed_data (b : Byte) {s : State} (hs : s.state = .data) : exec (.feed b) s = feedData b s := by
  simp only [exec, execFeed, hs]

theorem exec_feed_frameEnd (b : Byte) {s : State} (hs : s.state = .frameEnd) : exec (.feed b) s = feedEnd b s := by
  simp only [exec, execFeed, hs]

/-- An END_MARKER completes the frame when the target is broadcast or the frame's address (R131). -/
theorem feedEnd_eq_completeFrame {s : State} (h : s.targetAddr = Config.broadcast ∨ s.bufRead 1 = some s.targetAddr) :
    feedEnd Config.endMarker s = completeFrame s := by
  rcases h with hall | haddr
  · simp [feedEnd, hall]
  · simp [feedEnd, haddr]

/-- Settles O11: the stop is the fault of the first access that has no effect. -/
theorem feedStopsOutsideBuffer : Obligations.FeedStopsOutsideBuffer := by
  unfold Obligations.FeedStopsOutsideBuffer
  refine ⟨fun b rLen s hs hlen hidx => ?_, fun b s hs hlen => ?_, fun s hs htarget haddr => ?_, fun s hs haddr => ?_⟩
  · have hout : ¬ s.idx < Config.bufCap := Nat.not_lt.mpr hidx
    simp only [exec_feed_data b hs, feedData, hlen, keepByte, if_neg hout]
  · simp only [exec_feed_data b hs, feedData, hlen]
  · have hnone : s.targetAddr ≠ Config.broadcast := htarget
    rw [exec_feed_frameEnd 0x4D hs]
    simp [feedEnd, Config.endMarker, hnone, haddr]
  · rw [exec_feed_frameEnd 0x4D hs, show feedEnd 0x4D s = completeFrame s from feedEnd_eq_completeFrame haddr]
    refine ⟨fun hlen => ?_, fun hlen => ?_, fun rLen i hlen hbody => ?_⟩
    · simp only [completeFrame, hlen]
    · simp only [completeFrame, hlen]
      rfl
    · simp only [completeFrame, hlen, hbody]

/-! ### Which events FEED appends -/

/-- The events of the FrameDecoder and the PayloadDecoder: all but SEND's two, TX and RESULT (R34). -/
def Event.decoding : Event → Bool
  | .frame .. | .sample .. | .diag .. => true
  | .result .. | .tx .. => false

/-- Every event of the list is the decoders' own. -/
def DecodingEvents (es : List Event) : Prop := ∀ e ∈ es, e.decoding = true

theorem no_events_of_out_eq {s t : State} (h : t.out = s.out) : ∃ es, Emitted s t es ∧ DecodingEvents es :=
  ⟨[], by simp [Emitted, h], by simp [DecodingEvents]⟩

theorem decodingEvents_reportEvents (body : List Byte) : DecodingEvents (reportEvents body) := by
  unfold reportEvents
  split
  · simp [DecodingEvents, Event.decoding]
  · cases (decodeReport body).2 <;> simp [DecodingEvents, truncationEvents, Event.decoding]

theorem payloadDecode_events {body : List Byte} {s t : State} (h : payloadDecode body s = .next t) :
    ∃ es, Emitted s t es ∧ DecodingEvents es := by
  cases body with
  | nil => simp [payloadDecode] at h
  | cons c rest =>
    rw [payloadDecode_cons] at h
    obtain rfl := Host.Outcome.next.inj h
    refine ⟨_, rfl, ?_⟩
    split
    · exact decodingEvents_reportEvents _
    · simp [DecodingEvents, Event.decoding]

theorem completeFrame_events {s t : State} (h : completeFrame s = .next t) : ∃ es, Emitted s t es ∧ DecodingEvents es := by
  obtain ⟨_, body, u, -, -, hu, rfl⟩ := completeFrame_eq_next h
  obtain ⟨es, hout, hes⟩ := payloadDecode_events hu
  refine ⟨.frame (body.headD 0) body :: es, by simpa [Emitted] using hout, ?_⟩
  simpa [DecodingEvents, Event.decoding] using hes

/-- Every FEED appends the decoders' events alone. -/
theorem execFeed_events {b : Byte} {s t : State} (h : execFeed b s = .next t) : ∃ es, Emitted s t es ∧ DecodingEvents es := by
  rcases execFeed_cases h with ⟨-, -, rfl⟩ | ⟨-, -, rfl⟩ | ⟨-, -, rfl⟩ | ⟨-, -, -, rfl⟩ | ⟨-, n, -, -, rfl⟩ |
    ⟨-, -, rfl⟩ | ⟨-, code, info, rfl⟩ | ⟨-, -, hcomplete⟩
  · exact no_events_of_out_eq rfl
  · exact no_events_of_out_eq rfl
  · exact no_events_of_out_eq rfl
  · exact no_events_of_out_eq rfl
  · exact no_events_of_out_eq rfl
  · exact no_events_of_out_eq rfl
  · exact ⟨[.diag code info], rfl, by simp [DecodingEvents, Event.decoding]⟩
  · exact completeFrame_events hcomplete

/-- What SEND appends, given the transport's answer (R200). -/
def sendEvents (a : Byte) (b : List Byte) (answer : TxOutcome) : List Event :=
  if txLengthOk b then [.tx (txReply (build a b) answer).1, .result (txReply (build a b) answer).2] else [.result .errLen]

theorem exec_send_eq_emit (a : Byte) (b : List Byte) (s : State) :
    exec (.send a b) s = .next (s.emit (sendEvents a b s.txPort)) := transmit_eq a b s

theorem emit_onlyOutChanged (s : State) (es : List Event) : OnlyOutChanged s (s.emit es) :=
  ⟨rfl, fun _ => rfl, rfl, rfl, rfl, rfl, rfl, rfl⟩

/-- Settles O35: SEND is an emission that reads `txPort` alone, and FEED appends the decoders' events alone. -/
theorem decoderAndBuilderShareNothing : Obligations.DecoderAndBuilderShareNothing := by
  unfold Obligations.DecoderAndBuilderShareNothing
  refine ⟨fun a b o => ⟨sendEvents a b o, fun s ho => ?_⟩, fun b s t h => ?_⟩
  · subst ho
    exact ⟨_, exec_send_eq_emit a b s, emit_onlyOutChanged s _, rfl⟩
  · obtain ⟨es, hout, hes⟩ := execFeed_events h
    exact ⟨es, hout, fun bytes hmem => absurd (hes _ hmem) (by simp [Event.decoding]),
      fun r hmem => absurd (hes _ hmem) (by simp [Event.decoding])⟩

/-! ### The FrameDecoder without its surroundings -/

/-- The FrameDecoder and TARGET_ADDR of `s`, with an empty output stream and the reset values of what no FEED reads. -/
def State.decoderOnly (s : State) : State :=
  { State.reset with state := s.state, buf := s.buf, idx := s.idx, sum := s.sum, targetAddr := s.targetAddr }

/-- The FrameDecoder and TARGET_ADDR of `s` in the surroundings of `e`: the events of `s` stand after those of `e`. -/
def State.onto (s e : State) : State :=
  { e with
    state := s.state, buf := s.buf, idx := s.idx, sum := s.sum, targetAddr := s.targetAddr, out := e.out ++ s.out }

theorem State.decoderOnly_onto (s : State) : s.decoderOnly.onto s = s := by
  simp [State.decoderOnly, State.onto, State.reset]

variable (s e : State)

@[simp] theorem State.onto_state : (s.onto e).state = s.state := rfl
@[simp] theorem State.onto_idx : (s.onto e).idx = s.idx := rfl
@[simp] theorem State.onto_sum : (s.onto e).sum = s.sum := rfl
@[simp] theorem State.onto_targetAddr : (s.onto e).targetAddr = s.targetAddr := rfl
@[simp] theorem State.bufRead_onto (i : Nat) : (s.onto e).bufRead i = s.bufRead i := rfl

@[simp] theorem State.bufReadRange_onto (i n : Nat) : (s.onto e).bufReadRange i n = s.bufReadRange i n :=
  State.bufReadRange_congr (s := s) (t := s.onto e) rfl rfl i n

theorem State.emit_onto (es : List Event) : (s.emit es).onto e = (s.onto e).emit es := by
  simp [State.emit, State.onto]

/-- The outcome, with its next state in the surroundings of `e`. -/
def ontoNext (e : State) (o : Outcome) : Outcome := andThen o fun t => .next (t.onto e)

theorem keepByte_onto (i : Nat) (b m : Byte) (st : Fsm) :
    keepByte i b m st (s.onto e) = ontoNext e (keepByte i b m st s) := by
  unfold keepByte
  split <;> rfl

theorem reject_onto (code : DiagCode) (info : List Byte) : reject code info (s.onto e) = ontoNext e (reject code info s) := by
  simp only [reject, ← State.emit_onto]
  rfl

theorem payloadDecode_onto (body : List Byte) : payloadDecode body (s.onto e) = ontoNext e (payloadDecode body s) := by
  cases body with
  | nil => rfl
  | cons c rest =>
    simp only [payloadDecode_cons, ← State.emit_onto]
    rfl

theorem thenAbandon_ontoNext (o : Outcome) : thenAbandon (ontoNext e o) = ontoNext e (thenAbandon o) := by
  cases o <;> rfl

theorem completeFrame_onto : completeFrame (s.onto e) = ontoNext e (completeFrame s) := by
  unfold completeFrame
  simp only [State.bufRead_onto, State.bufReadRange_onto, ← State.emit_onto, payloadDecode_onto, thenAbandon_ontoNext]
  split
  · rfl
  · split <;> rfl

theorem feedEnd_onto (b : Byte) : feedEnd b (s.onto e) = ontoNext e (feedEnd b s) := by
  unfold feedEnd
  simp only [State.bufRead_onto, State.onto_targetAddr, completeFrame_onto, reject_onto]
  split
  · rfl
  · split
    · rfl
    · split
      · rfl
      · split <;> rfl

theorem feedData_onto (b : Byte) : feedData b (s.onto e) = ontoNext e (feedData b s) := by
  unfold feedData
  simp only [State.bufRead_onto, State.onto_idx, State.onto_sum, keepByte_onto]
  split <;> rfl

/-- FEED reads nothing of the surroundings and leaves them as they are but for the events it appends (R73, R77). -/
theorem execFeed_onto (b : Byte) : execFeed b (s.onto e) = ontoNext e (execFeed b s) := by
  unfold execFeed
  rw [State.onto_state]
  cases s.state with
  | awaitStart =>
    simp only [feedAwaitStart, keepByte_onto]
    split <;> rfl
  | address =>
    simp only [feedAddress, State.onto_sum, keepByte_onto, reject_onto]
    split <;> rfl
  | length =>
    simp only [feedLength, State.onto_sum, keepByte_onto, reject_onto]
    split <;> rfl
  | data => exact feedData_onto s e b
  | checksum =>
    simp only [feedChecksum, State.onto_sum, reject_onto]
    split <;> rfl
  | frameEnd => exact feedEnd_onto s e b

end Sys2Proof.Machine

namespace Sys2Proof

open Machine

/-! ### Runs of FEEDs -/

theorem feedBytes_append (bs cs : List Byte) (s : State) :
    feedBytes (bs ++ cs) s = andThen (feedBytes bs s) (feedBytes cs) := by
  induction bs generalizing s with
  | nil => rfl
  | cons b bs ih =>
    change andThen (exec (.feed b) s) (feedBytes (bs ++ cs)) =
      andThen (andThen (exec (.feed b) s) (feedBytes bs)) (feedBytes cs)
    cases exec (.feed b) s with
    | next u => exact ih u
    | fault r => rfl
    | refused r => rfl

/-- How the host split its reads does not matter (R77). -/
theorem feedChunks_eq_feedBytes (cs : List (List Byte)) (s : State) : feedChunks cs s = feedBytes cs.flatten s := by
  induction cs generalizing s with
  | nil => rfl
  | cons c cs ih => rw [List.flatten_cons, feedBytes_append, feedChunks, funext ih]

/-! ### FEED depends on the FrameDecoder and TARGET_ADDR alone -/

/-- Run from `s` and from `t`, two outcomes are next states with the same events appended and the same decoder. -/
def SameRun (s t : State) (o p : Outcome) : Prop :=
  ∃ s' t' es, o = .next s' ∧ p = .next t' ∧ Emitted s s' es ∧ Emitted t t' es ∧ SameDecoder s' t'

theorem SameDecoder.decoderOnly {s t : State} (h : SameDecoder s t) : SameBelowIdx s.decoderOnly t.decoderOnly := by
  obtain ⟨hstate, hidx, hsum, htarget, hread⟩ := h
  exact ⟨by simp [State.decoderOnly, hstate, hidx, hsum, htarget], hread⟩

theorem SameBelowIdx.sameDecoder_onto {s t : State} (h : SameBelowIdx s t) (c d : State) :
    SameDecoder (s.onto c) (t.onto d) :=
  ⟨h.state_eq, h.idx_eq, h.sum_eq, h.targetAddr_eq, h.2⟩

theorem FrameInv.decoderOnly {s : State} (h : FrameInv s) : FrameInv s.decoderOnly := h.of_eq rfl rfl rfl rfl

theorem execFeed_eq_ontoNext (b : Byte) (s : State) : execFeed b s = ontoNext s (execFeed b s.decoderOnly) := by
  rw [← execFeed_onto, State.decoderOnly_onto]

/-- One byte: both FEEDs are those of the decoders alone, each put back into its own surroundings. -/
theorem SameDecoder.execFeed {s t : State} (h : SameDecoder s t) (hinv : FrameInv s) (b : Byte) :
    SameRun s t (execFeed b s) (execFeed b t) := by
  rw [execFeed_eq_ontoNext b s, execFeed_eq_ontoNext b t]
  obtain ⟨u, hu⟩ := hinv.decoderOnly.execFeed_completes b
  have hsame := h.decoderOnly.execFeed hinv.decoderOnly b
  rw [hu] at hsame ⊢
  generalize Machine.execFeed b t.decoderOnly = p at hsame
  cases hsame with
  | @next _ v huv =>
    have hout : v.out = u.out := (congrArg State.out huv.1 :)
    exact ⟨_, _, u.out, rfl, rfl, rfl, congrArg (t.out ++ ·) hout, huv.sameDecoder_onto s t⟩

theorem SameDecoder.feedBytes {s t : State} (h : SameDecoder s t) (hinv : FrameInv s) (bs : List Byte) :
    SameRun s t (feedBytes bs s) (feedBytes bs t) := by
  induction bs generalizing s t with
  | nil => exact ⟨s, t, [], rfl, rfl, by simp [Emitted], by simp [Emitted], h⟩
  | cons b bs ih =>
    obtain ⟨u, v, es, hu, hv, hsu, htv, huv⟩ := h.execFeed hinv b
    obtain ⟨s', t', fs, hs', ht', hus', hvt', hlast⟩ := ih huv (hinv.execFeed hu)
    refine ⟨s', t', es ++ fs, ?_, ?_, ?_, ?_, hlast⟩
    · exact (congrArg (andThen · (Sys2Proof.feedBytes bs)) hu).trans hs'
    · exact (congrArg (andThen · (Sys2Proof.feedBytes bs)) hv).trans ht'
    · rw [Emitted, hus', hsu, List.append_assoc]
    · rw [Emitted, hvt', htv, List.append_assoc]

/-- Settles O22: a run over reads is the run over their bytes, and each FEED of it appends the same events. -/
theorem feedDependsOnDecoderAndTargetOnly : Obligations.FeedDependsOnDecoderAndTargetOnly := by
  unfold Obligations.FeedDependsOnDecoderAndTargetOnly
  intro cs ds s t hbytes hinv h
  rw [feedChunks_eq_feedBytes, feedChunks_eq_feedBytes, ← hbytes]
  exact h.feedBytes hinv cs.flatten

end Sys2Proof
end

section
/-! SUPPORT. The encodings of host words and command bodies (R80 to R88, R91 to R94), with the
obligations O38, O39, O53, O54, O55, O56 and O60. -/

namespace Sys2Proof

open Machine

/-! ### The fields of a host word (R91) -/

theorem opField_toNat (w : Word) : (opField w).toNat = w.toNat / 4096 := by
  rw [opField, BitVec.extractLsb'_toNat, Nat.shiftRight_eq_div_pow]
  omega

theorem zField_toNat (w : Word) : (zField w).toNat = w.toNat / 256 % 16 := by
  rw [zField, BitVec.extractLsb'_toNat, Nat.shiftRight_eq_div_pow]

theorem vField_toNat (w : Word) : (vField w).toNat = w.toNat % 256 := by
  rw [vField, BitVec.extractLsb'_toNat, Nat.shiftRight_zero]

theorem hostWord_toNat (op : BitVec 4) (v : Byte) : (hostWord op v).toNat = op.toNat * 4096 + v.toNat := by
  have hop : (op ++ (0 : BitVec 4)).toNat = op.toNat * 16 := by
    rw [BitVec.toNat_append, Nat.shiftLeft_eq]
    exact Nat.or_zero _
  rw [hostWord, BitVec.toNat_append, hop, ← Nat.shiftLeft_add_eq_or_of_lt v.isLt, Nat.shiftLeft_eq]
  omega

@[simp] theorem opField_hostWord (op : BitVec 4) (v : Byte) : opField (hostWord op v) = op :=
  BitVec.eq_of_toNat_eq (by rw [opField_toNat, hostWord_toNat]; omega)

@[simp] theorem zField_hostWord (op : BitVec 4) (v : Byte) : zField (hostWord op v) = 0 :=
  BitVec.eq_of_toNat_eq (by rw [zField_toNat, hostWord_toNat, BitVec.ofNat_eq_ofNat, BitVec.toNat_zero]; omega)

@[simp] theorem vField_hostWord (op : BitVec 4) (v : Byte) : vField (hostWord op v) = v :=
  BitVec.eq_of_toNat_eq (by rw [vField_toNat, hostWord_toNat]; omega)

/-- A word whose `z` is 0 is put together from its two other fields. -/
theorem eq_hostWord_of_zField {w : Word} (hz : zField w = 0) : w = hostWord (opField w) (vField w) := by
  have hz' : w.toNat / 256 % 16 = 0 := (zField_toNat w).symm.trans (congrArg BitVec.toNat hz)
  refine BitVec.eq_of_toNat_eq ?_
  rw [hostWord_toNat, opField_toNat, vField_toNat]
  omega

/-! ### Host words (R92, R94) -/

/-- The words that R94 reserves. -/
def ReservedWord (w : Word) : Prop :=
  w.toNat / 4096 = 0 ∨ 5 ≤ w.toNat / 4096 ∨ w.toNat / 256 % 16 ≠ 0 ∨ w.toNat / 4096 = 2 ∧ w.toNat % 256 ≠ 0

theorem reservedWord_of_zField {w : Word} (hz : zField w ≠ 0) : ReservedWord w := by
  rw [ne_eq, BitVec.toNat_eq, zField_toNat] at hz
  exact .inr (.inr (.inl hz))

theorem reservedWord_hostWord_iff {op : BitVec 4} {v : Byte} :
    ReservedWord (hostWord op v) ↔ op.toNat = 0 ∨ 5 ≤ op.toNat ∨ op.toNat = 2 ∧ v ≠ 0 := by
  have hv : v ≠ 0 ↔ v.toNat ≠ 0 := not_congr BitVec.toNat_eq
  rw [ReservedWord, hostWord_toNat, hv]
  omega

/-- What the decoder makes of a word whose `z` is 0 (R92, R94). -/
theorem decodeHost_hostWord (op : BitVec 4) (v : Byte) (port : List Byte) :
    decodeHost (hostWord op v) port =
      if op = 0x1 then .ok (.feed v)
      else if op = 0x2 then (if v = 0 then .ok .reset else .error .resetOperand)
      else if op = 0x3 then .ok (.setTarget v)
      else if op = 0x4 then .ok (.send v port)
      else .error .reservedOp := by
  rw [decodeHost, zField_hostWord, opField_hostWord, vField_hostWord, if_neg (not_not_intro rfl)]

/-- What a host word with the body port `port` spells: one of R92's four operations, or nothing, where it is reserved. -/
inductive Spells (port : List Byte) : Word → Except DecodeError Instr → Prop where
  | feed (v : Byte) : Spells port (hostWord 0x1 v) (.ok (.feed v))
  | reset : Spells port (hostWord 0x2 0) (.ok .reset)
  | setTarget (v : Byte) : Spells port (hostWord 0x3 v) (.ok (.setTarget v))
  | send (a : Byte) : Spells port (hostWord 0x4 a) (.ok (.send a port))
  | reserved {w : Word} (h : ReservedWord w) (e : DecodeError) : Spells port w (.error e)

theorem spells_decodeHost (w : Word) (port : List Byte) : Spells port w (decodeHost w port) := by
  by_cases hz : zField w = 0
  case neg =>
    rw [decodeHost, if_pos hz]
    exact .reserved (reservedWord_of_zField hz) _
  rw [eq_hostWord_of_zField hz, decodeHost_hostWord]
  generalize opField w = op, vField w = v
  split_ifs with hfeed hreset hv hset hsend
  · exact hfeed ▸ .feed v
  · exact hreset ▸ hv ▸ .reset
  · exact .reserved (reservedWord_hostWord_iff.mpr (.inr (.inr ⟨congrArg BitVec.toNat hreset, hv⟩))) _
  · exact hset ▸ .setTarget v
  · exact hsend ▸ .send v
  · exact .reserved (reservedWord_hostWord_iff.mpr (by bv_omega)) _

/-- Settles O54: each operation's word is the encoder's. -/
theorem hostWordsHaveOneMeaning : Obligations.HostWordsHaveOneMeaning := by
  unfold Obligations.HostWordsHaveOneMeaning
  intro w port i (hdec : decodeHost w port = .ok i)
  have hspells := spells_decodeHost w port
  rw [hdec] at hspells
  cases hspells with
  | feed v => exact .inr ⟨rfl, by simp⟩
  | reset => exact .inr ⟨rfl, by simp⟩
  | setTarget v => exact .inr ⟨rfl, by simp⟩
  | send a => exact .inl rfl

/-- Settles O55: no operation's word lies in R94's families. -/
theorem reservedWordsAreRejected : Obligations.ReservedWordsAreRejected := by
  unfold Obligations.ReservedWordsAreRejected
  intro w port
  change (∃ e, decodeHost w port = .error e) ↔ ReservedWord w
  have hspells := spells_decodeHost w port
  generalize decodeHost w port = o at hspells ⊢
  cases hspells with
  | feed v => simp [reservedWord_hostWord_iff]
  | reset => simp [reservedWord_hostWord_iff]
  | setTarget v => simp [reservedWord_hostWord_iff]
  | send a => simp [reservedWord_hostWord_iff]
  | reserved h e => exact iff_of_true ⟨e, rfl⟩ h

/-- Settles O56: the step of a reserved word is `State.refuse` after `State.take`. -/
theorem reservedWordOnlyMarksRefused : Obligations.ReservedWordOnlyMarksRefused := by
  unfold Obligations.ReservedWordOnlyMarksRefused
  intro op rest e s hhost hdec
  have hstep : step s = .next (s.take op rest).refuse := by simp only [step, hhost, hdec]
  exact ⟨_, hstep, rfl, rfl, fun _ => rfl, rfl, rfl, rfl, (List.append_nil _).symm, rfl⟩

/-! ### Decoding what is encoded -/

/-- R87: the two bytes of the subscribe tag, put together again. -/
theorem tag_bytes_append (tag : BitVec 16) : tag.extractLsb' 8 8 ++ tag.extractLsb' 0 8 = tag := by
  rw [BitVec.extractLsb'_append_extractLsb'_eq_extractLsb' (by decide)]
  exact BitVec.extractLsb'_eq_self

theorem decode_inbound_report {rest : List Byte} (h : bodyRestFits rest = true) :
    decode (.inbound (Config.cmdReport :: rest)) = .ok (.cmdSensorReport rest) := by
  simp [decode, decodeInbound, h]

theorem decode_inbound_other {c : Byte} {rest : List Byte} (hc : c ≠ Config.cmdReport) (h : bodyRestFits rest = true) :
    decode (.inbound (c :: rest)) = .ok (.cmdOtherInbound c rest) := by
  simp [decode, decodeInbound, hc, h]

theorem decode_outbound_params (a : Byte) (p : ParamBlock) : decode (.outbound a p.body) = .ok (.cmdParams a p) := by
  change Except.ok (Instr.cmdParams a { p with tag := p.tag.extractLsb' 8 8 ++ p.tag.extractLsb' 0 8 }) = _
  rw [tag_bytes_append]

/-- Settles O53: row by row, each operand is read back from where the encoder puts it. -/
theorem decodeInvertsEncode : Obligations.DecodeInvertsEncode := by
  unfold Obligations.DecodeInvertsEncode
  intro i hwf
  cases i with
  | feed b => exact decodeHost_hostWord 0x1 b []
  | reset => exact decodeHost_hostWord 0x2 0 []
  | setTarget v => exact decodeHost_hostWord 0x3 v []
  | send a b => exact decodeHost_hostWord 0x4 a b
  | cmdSensorReport rest => exact decode_inbound_report hwf
  | cmdParams a p => exact decode_outbound_params a p
  | cmdWake a => rfl
  | cmdAutoreport a => rfl
  | cmdOtherInbound c rest =>
    simp only [Instr.wellFormed, Bool.and_eq_true, decide_eq_true_eq] at hwf
    obtain ⟨hc, hfits⟩ := hwf
    exact decode_inbound_other hc hfits

/-- Settles O60: each encoding is evaluated. -/
theorem writtenOutWordsDecode : Obligations.WrittenOutWordsDecode := by
  unfold Obligations.WrittenOutWordsDecode
  decide

/-! ### The outbound commands (R87, R88, R98) -/

/-- A SEND of a body that the builder accepts, with a transport that writes every byte (R204). -/
theorem transmit_all_written {b : List Byte} {s : State} (a : Byte) (hlen : txLengthOk b = true)
    (hport : s.txPort = .written (55 + b.length)) :
    transmit a b s = .next (s.emit [.tx (build a b), .result .ok]) := by
  rw [← build_length a b] at hport
  simp [transmit_eq, hlen, hport, txReply]

/-- The bytes of WAKE (R88). -/
theorem build_wake (a : Byte) :
    build a [Config.cmdWake] =
      List.replicate 46 (0 : Byte) ++ [0x00, 0xFF, 0x00, 0xFF, 0x49, a, 0x01, 0x03, a + 0x04, 0x4D] := rfl

/-- The bytes of AUTOREPORT (R88). -/
theorem build_autoreport (a : Byte) :
    build a [Config.cmdAutoreport] =
      List.replicate 46 (0 : Byte) ++ [0x00, 0xFF, 0x00, 0xFF, 0x49, a, 0x01, 0x19, a + 0x1A, 0x4D] := rfl

/-- The bytes of PARAMS, with the tag little-endian (R87). -/
theorem build_params (a : Byte) (p : ParamBlock) :
    build a p.body = List.replicate 46 (0 : Byte) ++ [0x00, 0xFF, 0x00, 0xFF, 0x49, a, 0x0B, 0x12, p.threshold0, p.threshold1,
      p.threshold2, p.filterCompass, p.rate, p.filter0, p.filter1, p.filter2, p.tag.setWidth 8, (p.tag >>> 8).setWidth 8,
      checksum a p.body, 0x4D] := rfl

/-- Settles O38: each command is a SEND of a body that the builder accepts. -/
theorem outboundCommandsAreSent : Obligations.OutboundCommandsAreSent := by
  unfold Obligations.OutboundCommandsAreSent
  intro a s
  simp only [← build_wake, ← build_autoreport, ← build_params]
  refine ⟨fun hport => ⟨?_, ?_⟩, fun hport p => ?_⟩
  · exact ⟨_, transmit_all_written (b := [Config.cmdWake]) a rfl hport, emit_onlyOutChanged s _, rfl⟩
  · exact ⟨_, transmit_all_written (b := [Config.cmdAutoreport]) a rfl hport, emit_onlyOutChanged s _, rfl⟩
  · exact ⟨_, transmit_all_written (b := p.body) a rfl hport, emit_onlyOutChanged s _, rfl⟩

/-- Settles O39: each command's meaning is the SEND of its body. -/
theorem outboundCommandsAreSends : Obligations.OutboundCommandsAreSends := by
  unfold Obligations.OutboundCommandsAreSends
  intro a p s
  exact ⟨rfl, rfl, p.body, rfl, rfl, rfl⟩

end Sys2Proof
end

section
/-! SUPPORT. How FEED receives a frame, byte by byte (R80, R84, R120 to R131), with the obligations O18 and O20. -/

namespace Sys2Proof

open Machine

/-! ### Runs of FEEDs that go on -/

theorem feedBytes_cons_of_next {b : Byte} {s t : State} (h : exec (.feed b) s = .next t) (bs : List Byte) :
    feedBytes (b :: bs) s = feedBytes bs t :=
  congrArg (andThen · (feedBytes bs)) h

theorem feedBytes_append_of_next {bs : List Byte} {s t : State} (h : feedBytes bs s = .next t) (cs : List Byte) :
    feedBytes (bs ++ cs) s = feedBytes cs t := by
  rw [feedBytes_append, h, andThen]

/-! ### Skipping (R84, R121) -/

theorem exec_feed_awaitStart (b : Byte) {s : State} (hs : s.state = .awaitStart) :
    exec (.feed b) s = feedAwaitStart b s := by
  simp only [exec, execFeed, hs]

/-- In AwaitStart, bytes without a START_MARKER among them change nothing. -/
theorem feedBytes_skip {bs : List Byte} {s : State} (hs : s.state = .awaitStart) (h : Config.startMarker ∉ bs) :
    feedBytes bs s = .next s := by
  induction bs with
  | nil => rfl
  | cons b bs ih =>
    obtain ⟨hb, hbs⟩ := not_or.mp (mt List.mem_cons.mpr h)
    have hskip : exec (.feed b) s = .next s := by
      rw [exec_feed_awaitStart b hs, feedAwaitStart, if_neg (Ne.symm hb)]
    rw [feedBytes_cons_of_next hskip, ih hbs]

/-- Settles O20: neither the preamble nor the synchronisation pattern holds a START_MARKER. -/
theorem preambleAndSyncAreSkipped : Obligations.PreambleAndSyncAreSkipped := by
  unfold Obligations.PreambleAndSyncAreSkipped
  intro s hs
  exact feedBytes_skip hs (by decide)

/-! ### A frame attempt -/

/-- The attempt begun in `s` has reached `t`: the FrameDecoder is in `st` and holds the bytes `held`, `sum` counts those
after the START_MARKER (R27), and no event has been given. -/
structure Attempt (s : State) (st : Fsm) (held : List Byte) (t : State) : Prop where
  state : t.state = st
  read : t.bufReadRange 0 t.idx = .ok held
  sum : t.sum = byteSum held.tail
  control : ControlKept s t
  out : t.out = s.out

/-- R121a: a START_MARKER begins an attempt, wherever `idx` and `buf` were. -/
theorem feed_startMarker {s : State} (hs : s.state = .awaitStart) :
    ∃ t, exec (.feed Config.startMarker) s = .next t ∧ Attempt s .address [Config.startMarker] t := by
  refine ⟨s.keep 0 Config.startMarker 0 .address, ?_, rfl, ?_, rfl, ⟨rfl, rfl, rfl, rfl⟩, rfl⟩
  · rw [exec_feed_awaitStart _ hs, feedAwaitStart, if_pos rfl, keepByte_next _ _ _ _ (by decide)]
  · exact State.bufReadRange_keep (s := s.abandon) (held := []) rfl Config.startMarker 0 .address

namespace Attempt

variable {s t : State} {st : Fsm} {held body rest : List Byte} {m a n : Byte}

theorem bufRead (h : Attempt s st held t) (k : Nat) : t.bufRead k = held[k]? :=
  (State.bufReadRange_idx_eq_ok.mp h.read).2 k

theorem length_eq_idx (h : Attempt s st held t) : held.length = t.idx := (State.bufReadRange_idx_eq_ok.mp h.read).1

/-- A byte kept after the bytes held (R123, R125, R126, R127). -/
theorem keep (h : Attempt s st held t) (hne : held ≠ []) (b : Byte) (st' : Fsm) :
    Attempt s st' (held ++ [b]) (t.keep held.length b (t.sum + b) st') where
  state := rfl
  read := State.bufReadRange_keep h.read b _ st'
  sum := by simp [List.tail_append_of_ne_nil hne, byteSum_append, h.sum]
  control := h.control
  out := h.out

/-- R123: an address other than broadcast is kept. -/
theorem feed_address (h : Attempt s .address [m] t) (ha : a ≠ Config.broadcast) :
    ∃ u, exec (.feed a) t = .next u ∧ Attempt s .length [m, a] u := by
  refine ⟨_, ?_, h.keep (by simp) a .length⟩
  simp only [exec, execFeed, h.state, feedAddress, if_neg ha]
  exact keepByte_next _ _ _ _ (by decide)

/-- R125: a length of 1 to 73 is kept. -/
theorem feed_length (h : Attempt s .length [m, a] t) (hn : n ≠ 0) (hmax : n.toNat ≤ Config.maxBody) :
    ∃ u, exec (.feed n) t = .next u ∧ Attempt s .data [m, a, n] u := by
  refine ⟨_, ?_, h.keep (by simp) n .data⟩
  simp only [exec, execFeed, h.state, feedLength, if_neg (not_or_intro hn (Nat.not_lt.mpr hmax))]
  exact keepByte_next _ _ _ _ (by decide)

/-- R126, R127: one byte of the body, the last of which leads to Checksum. -/
theorem feed_data (h : Attempt s .data (m :: a :: n :: body) t) (hlt : body.length < n.toNat)
    (hmax : n.toNat ≤ Config.maxBody) (b : Byte) :
    ∃ u, exec (.feed b) t = .next u ∧
      Attempt s (if body.length + 1 < n.toNat then .data else .checksum) (m :: a :: n :: (body ++ [b])) u := by
  refine ⟨_, ?_, h.keep (by simp) b _⟩
  have hn : t.bufRead 2 = some n := h.bufRead 2
  have hcap : body.length + 3 < Config.bufCap := by
    simp only [Config.maxBody, Config.bufCap] at hmax ⊢
    omega
  simp only [exec_feed_data b h.state, feedData, hn, ← h.length_eq_idx, List.length_cons, keepByte_next _ _ _ _ hcap]
  simp only [Nat.add_right_comm _ 3 1, Nat.add_lt_add_iff_right]

/-- The rest of the body, up to Checksum. -/
theorem feed_body (h : Attempt s .data (m :: a :: n :: body) t) (hne : rest ≠ [])
    (hlen : body.length + rest.length = n.toNat) (hmax : n.toNat ≤ Config.maxBody) :
    ∃ u, feedBytes rest t = .next u ∧ Attempt s .checksum (m :: a :: n :: (body ++ rest)) u := by
  induction rest generalizing body t with
  | nil => exact absurd rfl hne
  | cons b rest ih =>
    rw [List.length_cons] at hlen
    obtain ⟨u, hu, hatt⟩ := h.feed_data (by omega) hmax b
    rw [feedBytes_cons_of_next hu, List.append_cons]
    rcases eq_or_ne rest [] with rfl | hrest
    · rw [List.length_nil] at hlen
      rw [if_neg (by omega)] at hatt
      exact ⟨u, rfl, by rwa [List.append_nil]⟩
    · have hpos := List.length_pos_iff.mpr hrest
      rw [if_pos (by omega)] at hatt
      exact ih hatt hrest (by rw [List.length_append, List.length_singleton]; omega)

/-- R128: the checksum byte that equals `sum` leads to End. -/
theorem feed_checksum (h : Attempt s .checksum held t) :
    ∃ u, exec (.feed (byteSum held.tail)) t = .next u ∧ Attempt s .frameEnd held u := by
  refine ⟨t.goto .frameEnd, ?_, rfl, ?_, h.sum, h.control, h.out⟩
  · simp only [exec, execFeed, h.state, feedChecksum, if_pos h.sum.symm]
  · exact (State.bufReadRange_congr (s := t) (t := t.goto .frameEnd) rfl rfl 0 t.idx).trans h.read

/-- R131: the END_MARKER of a frame that is accepted. -/
theorem feed_endMarker (h : Attempt s .frameEnd (m :: a :: n :: body) t) (hlen : body.length = n.toNat)
    (htarget : s.targetAddr = Config.broadcast ∨ s.targetAddr = a) :
    exec (.feed Config.endMarker) t = thenAbandon (payloadDecode body (t.emit [.frame (body.headD 0) body])) := by
  have haddr : t.bufRead 1 = some a := h.bufRead 1
  have hn : t.bufRead 2 = some n := h.bufRead 2
  have hbody : t.bufReadRange 3 n.toNat = .ok body := hlen ▸ State.bufReadRange_body h.read
  obtain ⟨hkept, -, -, -⟩ := h.control
  have haccept : t.targetAddr = Config.broadcast ∨ t.bufRead 1 = some t.targetAddr := by
    rw [hkept, haddr]
    exact htarget.imp_right fun h => congrArg some h.symm
  rw [exec_feed_frameEnd _ h.state, feedEnd_eq_completeFrame haccept]
  simp only [completeFrame, hn, hbody]

end Attempt

/-! ### A whole frame -/

theorem lenByte_toNat {b : List Byte} (h : b.length ≤ Config.maxBody) : (lenByte b).toNat = b.length := by
  simp only [Config.maxBody] at h
  rw [lenByte, BitVec.toNat_ofNat, Nat.mod_eq_of_lt (by omega)]

/-- A frame's bytes up to its checksum lead to Checksum. -/
theorem feed_frame_to_checksum {a : Byte} {b : List Byte} {s : State} (hs : s.state = .awaitStart)
    (ha : a ≠ Config.broadcast) (hne : b ≠ []) (hmax : b.length ≤ Config.maxBody) :
    ∃ t, feedBytes (Config.startMarker :: a :: lenByte b :: b) s = .next t ∧
      Attempt s .checksum (Config.startMarker :: a :: lenByte b :: b) t := by
  have hn := lenByte_toNat hmax
  have hn0 : lenByte b ≠ 0 := fun h0 => hne (List.length_eq_zero_iff.mp (hn.symm.trans (congrArg BitVec.toNat h0)))
  obtain ⟨t₁, hmarker, hatt⟩ := feed_startMarker hs
  obtain ⟨t₂, haddress, hatt⟩ := hatt.feed_address ha
  obtain ⟨t₃, hlength, hatt⟩ := hatt.feed_length hn0 (hn ▸ hmax)
  obtain ⟨t, hbody, hatt⟩ := hatt.feed_body hne (by rw [hn, List.length_nil, Nat.zero_add]) (hn ▸ hmax)
  refine ⟨t, ?_, hatt⟩
  rw [feedBytes_cons_of_next hmarker, feedBytes_cons_of_next haddress, feedBytes_cons_of_next hlength, hbody]

/-- The command of a body: what it decodes to is what the PayloadDecoder runs, and it only gives events (R131, R160). -/
theorem decode_inbound_runs {c : Byte} {rest : List Byte} (h : (c :: rest).length ≤ Config.maxBody) :
    ∃ i es, decode (.inbound (c :: rest)) = .ok i ∧
      ∀ s, exec i s = .next (s.emit es) ∧ payloadDecode (c :: rest) s = .next (s.emit es) := by
  have hfits : bodyRestFits rest = true := bodyRestFits_iff.mpr h
  by_cases hc : c = Config.cmdReport
  · subst hc
    exact ⟨_, reportEvents (Config.cmdReport :: rest), decode_inbound_report hfits, fun s => ⟨rfl, rfl⟩⟩
  · refine ⟨_, [.diag .cmdIgnored [c]], decode_inbound_other hc hfits, fun s => ⟨rfl, ?_⟩⟩
    rw [payloadDecode_cons, if_neg hc]

/-- Settles O18: the attempt is followed byte by byte to its END_MARKER, with the bytes held known at each. -/
theorem wellFormedFrameIsReceived : Obligations.WellFormedFrameIsReceived := by
  unfold Obligations.WellFormedFrameIsReceived
  intro a b s hs ha hpos hmax htarget
  obtain ⟨c, rest, rfl⟩ := List.exists_cons_of_length_pos hpos
  obtain ⟨i, es, hdec, hrun⟩ := decode_inbound_runs hmax
  obtain ⟨t₁, hfeed, hatt⟩ := feed_frame_to_checksum hs ha (List.cons_ne_nil c rest) hmax
  obtain ⟨t₂, hsum, hatt⟩ := hatt.feed_checksum
  have hend := hatt.feed_endMarker (lenByte_toNat hmax).symm htarget
  rw [(hrun _).2] at hend
  refine ⟨i, _, ((t₂.emit [.frame c (c :: rest)]).emit es).abandon, hdec, (hrun _).1, ?_, ?_, rfl, rfl, rfl, hatt.control⟩
  · exact (feedBytes_append_of_next hfeed _).trans ((feedBytes_cons_of_next hsum _).trans (feedBytes_cons_of_next hend []))
  · exact congrArg (· ++ [.frame c (c :: rest)] ++ es) hatt.out

end Sys2Proof
end

section
/-! SUPPORT. The FrameDecoder's transitions one by one (R121 to R134), the bound on a frame attempt (R136) and the frame with
one bit flipped (R137), with the obligations O3 to O10, O12, O16 and O21. -/

namespace Sys2Proof

open Machine

/-! ### What the shared operations of FEED change and leave -/

/-- An instruction that keeps a byte inside the buffer changes the FrameDecoder's registers and that cell alone. -/
theorem kept_of_exec {i : Instr} {s : State} {k : Nat} {b m : Byte} {st : Fsm} (hcap : k < Config.bufCap)
    (h : exec i s = keepByte k b m st s) :
    ∃ t, exec i s = .next t ∧ t.state = st ∧ t.idx = k + 1 ∧ t.sum = m ∧ t.buf.read k = some b ∧ BufKeptBut k s t ∧
      ControlKept s t ∧ Emitted s t [] :=
  ⟨s.keep k b m st, h.trans (keepByte_next b m st s hcap), rfl, rfl, rfl, Memory.read_write_same s.buf k b,
    fun _ hne => Memory.read_write_other s.buf b hne, ⟨rfl, rfl, rfl, rfl⟩, (List.append_nil s.out).symm⟩

/-- Abandon after some events: the attempt is over, whatever they are (R134). -/
theorem attemptOver_emit_abandon (s : State) (es : List Event) : AttemptOver s (s.emit es).abandon :=
  ⟨rfl, rfl, rfl, fun _ => rfl, rfl, rfl, rfl, rfl⟩

/-- An instruction that rejects its byte ends the attempt with its DIAG alone (R264). -/
theorem rejected_of_exec {i : Instr} {s : State} {code : DiagCode} {info : List Byte} (h : exec i s = reject code info s) :
    ∃ t, exec i s = .next t ∧ AttemptOver s t ∧ Emitted s t [.diag code info] :=
  ⟨_, h.trans (reject_eq code info s), attemptOver_emit_abandon s _, rfl⟩

/-! ### The transitions (R121 to R132) -/

theorem exec_feed_address (b : Byte) {s : State} (hs : s.state = .address) : exec (.feed b) s = feedAddress b s := by
  simp only [exec, execFeed, hs]

theorem exec_feed_length (b : Byte) {s : State} (hs : s.state = .length) : exec (.feed b) s = feedLength b s := by
  simp only [exec, execFeed, hs]

theorem exec_feed_checksum (b : Byte) {s : State} (hs : s.state = .checksum) : exec (.feed b) s = feedChecksum b s := by
  simp only [exec, execFeed, hs]

/-- Settles O3: the two branches of R121. -/
theorem awaitStartTakesMarkerOnly : Obligations.AwaitStartTakesMarkerOnly := by
  unfold Obligations.AwaitStartTakesMarkerOnly
  intro b s hs
  have hfeed := exec_feed_awaitStart b hs
  exact ⟨fun hb => kept_of_exec (by decide) (hfeed.trans (if_pos hb)), fun hb => hfeed.trans (if_neg hb)⟩

/-- Settles O4: the two branches of R122 and R123. -/
theorem addressRejectsBroadcastOnly : Obligations.AddressRejectsBroadcastOnly := by
  unfold Obligations.AddressRejectsBroadcastOnly
  intro b s hs
  have hfeed := exec_feed_address b hs
  exact ⟨fun hb => rejected_of_exec (hfeed.trans (if_pos hb)),
    fun hb => kept_of_exec (by decide) (hfeed.trans (if_neg hb))⟩

/-- Settles O5: the two branches of R124 and R125; the byte 0 is the one whose number is 0. -/
theorem lengthAcceptsOneToSeventyThree : Obligations.LengthAcceptsOneToSeventyThree := by
  unfold Obligations.LengthAcceptsOneToSeventyThree
  intro b s hs
  have hfeed := exec_feed_length b hs
  refine ⟨fun hb => rejected_of_exec (hfeed.trans (if_pos (hb.imp_left BitVec.eq_of_toNat_eq))), fun hpos hmax => ?_⟩
  have hne : b ≠ 0 := fun h0 => by simp [h0] at hpos
  exact kept_of_exec (by decide) (hfeed.trans (if_neg (not_or_intro hne (Nat.not_lt.mpr hmax))))

/-- Settles O6: Data has one branch, which keeps the byte at `idx`. -/
theorem dataKeepsEveryByte : Obligations.DataKeepsEveryByte := by
  unfold Obligations.DataKeepsEveryByte
  intro b rLen s hs hlen hidx
  refine kept_of_exec hidx ?_
  simp only [exec_feed_data b hs, feedData, hlen]

/-- Settles O7: the two branches of R128 and R129. -/
theorem checksumByteMustEqualSum : Obligations.ChecksumByteMustEqualSum := by
  unfold Obligations.ChecksumByteMustEqualSum
  intro b s hs
  have hfeed := exec_feed_checksum b hs
  refine ⟨fun hb => ?_, fun hb => rejected_of_exec (hfeed.trans (if_neg hb))⟩
  exact ⟨s.goto .frameEnd, hfeed.trans (if_pos hb), rfl, rfl, rfl, fun _ => rfl, ⟨rfl, rfl, rfl, rfl⟩,
    (List.append_nil s.out).symm⟩

/-- Settles O8: the terminator is checked before the address is read. -/
theorem endRejectsBadTerminator : Obligations.EndRejectsBadTerminator := by
  unfold Obligations.EndRejectsBadTerminator
  intro b s hs hb
  exact rejected_of_exec ((exec_feed_frameEnd b hs).trans (if_pos hb))

/-- An END_MARKER of a frame for another address is rejected (R132). -/
theorem feedEnd_eq_reject {s : State} {rAddr : Byte} (hall : s.targetAddr ≠ Config.broadcast)
    (hread : s.bufRead 1 = some rAddr) (hne : rAddr ≠ s.targetAddr) :
    feedEnd Config.endMarker s = reject .addrMismatch [rAddr, s.targetAddr] s := by
  simp [feedEnd, hall, hread, hne]

/-- Settles O9: the target and the stored address are compared in this step. -/
theorem endDropsForeignAddress : Obligations.EndDropsForeignAddress := by
  unfold Obligations.EndDropsForeignAddress
  intro rAddr s hs hread hall hne
  exact rejected_of_exec ((exec_feed_frameEnd 0x4D hs).trans (feedEnd_eq_reject hall hread hne))

/-- Settles O10: the body read is the command's, and the command only gives events before Abandon. -/
theorem endCompletesAcceptedFrame : Obligations.EndCompletesAcceptedFrame := by
  unfold Obligations.EndCompletesAcceptedFrame
  intro rLen body s hs hlen hpos hmax hbody haccept
  have hbodyLen : body.length = rLen.toNat := (State.bufReadRange_eq_ok.mp hbody).1
  obtain ⟨c, rest, rfl⟩ := List.exists_cons_of_length_pos (hbodyLen ▸ hpos)
  obtain ⟨i, es, hdec, hrun⟩ := decode_inbound_runs (hbodyLen.trans_le hmax)
  have hfeed : exec (.feed 0x4D) s = completeFrame s :=
    (exec_feed_frameEnd 0x4D hs).trans (feedEnd_eq_completeFrame haccept)
  simp only [completeFrame, hlen, hbody, (hrun _).2, State.emit_emit, thenAbandon] at hfeed
  exact ⟨i, _, _, hdec, (hrun _).1, hfeed, (List.append_assoc ..).symm, attemptOver_emit_abandon s _⟩

/-! ### No byte is scanned twice (R133) -/

/-- Settles O12: outside AwaitStart every next state is later in the attempt, or Abandon's. -/
theorem rejectingByteIsNotRescanned : Obligations.RejectingByteIsNotRescanned := by
  unfold Obligations.RejectingByteIsNotRescanned
  intro b s t hs h
  rcases execFeed_cases h with ⟨hs', -, -⟩ | ⟨hs', -, -⟩ | ⟨-, -, rfl⟩ | ⟨-, -, -, rfl⟩ | ⟨-, n, -, -, rfl⟩ |
    ⟨-, -, rfl⟩ | ⟨-, code, info, rfl⟩ | ⟨-, -, hcomplete⟩
  · exact absurd hs' hs
  · exact absurd hs' hs
  · exact ⟨nofun, nofun⟩
  · exact ⟨nofun, nofun⟩
  · rw [State.keep_state]
    split <;> exact ⟨nofun, nofun⟩
  · exact ⟨nofun, nofun⟩
  · exact ⟨nofun, fun _ => ⟨rfl, rfl⟩⟩
  · obtain ⟨es, rfl⟩ := completeFrame_eq_abandon hcomplete
    exact ⟨nofun, fun _ => ⟨rfl, rfl⟩⟩

/-! ### A frame attempt is bounded (R136) -/

/-- Under the invariant at most the 76 bytes before the checksum are held. -/
theorem FrameInv.idx_le {s : State} (hinv : FrameInv s) : s.idx ≤ 76 := by
  obtain ⟨-, held, hheld, hatt⟩ := hinv
  rw [← (State.bufReadRange_idx_eq_ok.mp hheld).1]
  cases hs : s.state <;> rw [hs] at hatt
  case awaitStart => simp [show held = [] from hatt]
  case address =>
    obtain ⟨rfl, -⟩ := hatt
    simp
  case length =>
    obtain ⟨a, rfl, -⟩ := hatt
    simp
  case data | checksum | frameEnd =>
    obtain ⟨a, n, body, rfl, -, -, hmax, hlen, -⟩ := hatt
    simp only [List.length_cons, Config.maxBody] at hmax ⊢
    omega

/-- Every run of FEEDs completes under the invariant and keeps it. -/
theorem FrameInv.feedBytes_completes {s : State} (hinv : FrameInv s) (bs : List Byte) :
    ∃ t, feedBytes bs s = .next t ∧ FrameInv t := by
  induction bs generalizing s with
  | nil => exact ⟨s, rfl, hinv⟩
  | cons b bs ih =>
    obtain ⟨u, hu⟩ := hinv.exec_completes (.feed b)
    rw [feedBytes_cons_of_next hu]
    exact ih (hinv.exec hu)

/-- How many bytes the attempt has taken: those held, and in End the checksum byte. -/
def bytesTaken (s : State) : Nat := s.idx + if s.state = .frameEnd then 1 else 0

theorem FrameInv.bytesTaken_le {s : State} (hinv : FrameInv s) : bytesTaken s ≤ 77 := by
  have := hinv.idx_le
  unfold bytesTaken
  split <;> omega

/-- A byte fed during an attempt ends it, or the attempt has taken one byte more. -/
theorem FrameInv.feed_ends_or_takes {s t : State} {b : Byte} (hinv : FrameInv s) (hs : s.state ≠ .awaitStart)
    (h : Machine.exec (.feed b) s = .next t) : t.state = .awaitStart ∨ bytesTaken t = bytesTaken s + 1 := by
  rcases execFeed_cases h with ⟨hs', -, -⟩ | ⟨hs', -, -⟩ | ⟨hs', -, rfl⟩ | ⟨hs', -, -, rfl⟩ | ⟨hs', n, -, -, rfl⟩ |
    ⟨hs', -, rfl⟩ | ⟨-, code, info, rfl⟩ | ⟨-, -, hcomplete⟩
  · exact absurd hs' hs
  · exact absurd hs' hs
  · exact .inr (by simp [bytesTaken, hs', hinv.idx_of_address hs'])
  · exact .inr (by simp [bytesTaken, hs', hinv.idx_of_length hs'])
  · refine .inr ?_
    simp only [bytesTaken, hs', State.keep_idx, State.keep_state]
    split <;> rfl
  · exact .inr (by simp [bytesTaken, hs'])
  · exact .inl rfl
  · obtain ⟨es, rfl⟩ := completeFrame_eq_abandon hcomplete
    exact .inl rfl

/-- An attempt has ended before it could take 78 bytes. -/
theorem FrameInv.attempt_ends {s : State} {bs : List Byte} (hinv : FrameInv s) (hs : s.state ≠ .awaitStart)
    (hmany : 78 ≤ bytesTaken s + bs.length) :
    ∃ k ≤ bs.length, ∃ t, feedBytes (bs.take k) s = .next t ∧ t.state = .awaitStart := by
  induction bs generalizing s with
  | nil => exact absurd hinv.bytesTaken_le (Nat.not_le.mpr hmany)
  | cons b bs ih =>
    obtain ⟨u, hu⟩ := hinv.exec_completes (.feed b)
    by_cases hend : u.state = .awaitStart
    · exact ⟨1, Nat.le_add_left .., u, feedBytes_cons_of_next hu [], hend⟩
    · have htaken := (hinv.feed_ends_or_takes hs hu).resolve_left hend
      rw [List.length_cons] at hmany
      obtain ⟨k, hk, t, hrun, ht⟩ := ih (hinv.exec hu) hend (by omega)
      exact ⟨k + 1, Nat.succ_le_succ hk, t, (feedBytes_cons_of_next hu _).trans hrun, ht⟩

/-- Settles O16: in Address one byte is taken, so the attempt ends within 77 more; `idx` is bounded by the invariant. -/
theorem attemptIsBounded : Obligations.AttemptIsBounded := by
  unfold Obligations.AttemptIsBounded
  intro s bs hinv hs hbs
  have htaken : bytesTaken s = 1 := by simp [bytesTaken, hs, hinv.idx_of_address hs]
  obtain ⟨k, hk, hend⟩ := hinv.attempt_ends (bs := bs) (by simp [hs]) (by rw [htaken, hbs])
  refine ⟨k, hbs ▸ hk, hend, fun j _ => ?_⟩
  obtain ⟨u, hu, huinv⟩ := hinv.feedBytes_completes (bs.take j)
  exact ⟨u, hu, huinv.idx_le⟩

/-! ### A frame with one bit flipped (R137) -/

theorem flipBit_ne (b : Byte) {k : Nat} (hk : k < 8) : flipBit b k ≠ b := by
  intro h
  have hbit : (flipBit b k).getLsbD k = b.getLsbD k := congrArg (·.getLsbD k) h
  rw [flipBit, BitVec.getLsbD_xor, BitVec.getLsbD_ofNat, Nat.testBit_two_pow_self, decide_eq_true hk] at hbit
  simp at hbit

/-- The sum with one byte replaced differs by the difference of the two bytes. -/
theorem byteSum_set {b : List Byte} {i : Nat} (hi : i < b.length) (v : Byte) :
    byteSum (b.set i v) + byteAt b i = byteSum b + v := by
  induction b generalizing i with
  | nil => exact absurd hi (Nat.not_lt_zero i)
  | cons c b ih =>
    cases i with
    | zero =>
      simp only [List.set_cons_zero, byteSum_cons, byteAt, List.getD_cons_zero]
      ac_rfl
    | succ i =>
      have h := ih (Nat.lt_of_succ_lt_succ hi)
      simp only [byteAt, List.set_cons_succ, byteSum_cons, List.getD_cons_succ] at h ⊢
      rw [BitVec.add_assoc, h, BitVec.add_assoc]

namespace OneBitError

variable {a c' : Byte} {b b' : List Byte}

theorem length_eq (h : OneBitError a b b' c') : b'.length = b.length := by
  rcases h with ⟨i, k, -, -, rfl, -⟩ | ⟨k, -, rfl, -⟩
  · exact List.length_set
  · rfl

/-- The checksum byte is not that of the body received. -/
theorem checksum_ne (h : OneBitError a b b' c') : c' ≠ checksum a b' := by
  have hlen : lenByte b' = lenByte b := by rw [lenByte, lenByte, h.length_eq]
  rcases h with ⟨i, k, hi, hk, rfl, rfl⟩ | ⟨k, hk, rfl, rfl⟩
  · intro hsum
    simp only [checksum, byteSum_cons, hlen, BitVec.add_right_inj] at hsum
    have hset := byteSum_set hi (flipBit (byteAt b i) k)
    rw [← hsum, BitVec.add_right_inj] at hset
    exact flipBit_ne _ hk hset.symm
  · exact flipBit_ne _ hk

end OneBitError

/-- A frame whose checksum byte is not the sum of its bytes gives CHECKSUM_MISMATCH, and its END_MARKER is skipped
(R129, R121b). -/
theorem feed_wrong_checksum {a c : Byte} {b : List Byte} {s : State} (hs : s.state = .awaitStart)
    (ha : a ≠ Config.broadcast) (hne : b ≠ []) (hmax : b.length ≤ Config.maxBody) (hc : c ≠ checksum a b) :
    ∃ t, feedBytes ((Config.startMarker :: a :: lenByte b :: b) ++ [c, Config.endMarker]) s = .next t ∧
      t.state = .awaitStart ∧ Emitted s t [.diag .checksumMismatch [checksum a b, c]] := by
  obtain ⟨t, hframe, hatt⟩ := feed_frame_to_checksum hs ha hne hmax
  have hsum : t.sum = checksum a b := hatt.sum
  obtain ⟨u, hu, ⟨hstate, -⟩, hout⟩ := (checksumByteMustEqualSum c t hatt.state).2 (hsum ▸ hc)
  refine ⟨u, ?_, hstate, ?_⟩
  · rw [feedBytes_append_of_next hframe, feedBytes_cons_of_next hu]
    exact feedBytes_skip hstate (by decide)
  · rw [Emitted, ← hatt.out, ← hsum]
    exact hout

/-- Settles O21: the flipped bit leaves the length and changes the sum or the checksum byte, so the two differ. -/
theorem singleBitErrorIsRejected : Obligations.SingleBitErrorIsRejected := by
  unfold Obligations.SingleBitErrorIsRejected
  intro a c' b b' s hs ha hpos hmax herr
  have hlen := herr.length_eq
  have hne : b' ≠ [] := List.ne_nil_of_length_pos (hlen ▸ hpos)
  rw [lenByte, ← hlen]
  exact feed_wrong_checksum hs ha hne (hlen.trans_le hmax) herr.checksum_ne

end Sys2Proof
end

section
/-! SUPPORT. The PayloadDecoder (41_payload_decoder.md): what a 0x11 body decodes to, field by field (R160 to R178), the raw
and the physical values (R165, R166), with the obligations O41 to O51. -/

namespace Sys2Proof.Machine

/-! ### Little-endian bytes as bit vectors (R9, R165, R168) -/

theorem toNat_append_byte {n : Nat} (hi : BitVec n) (lo : Byte) : (hi ++ lo).toNat = 256 * hi.toNat + lo.toNat := by
  rw [BitVec.toNat_append, ← Nat.shiftLeft_add_eq_or_of_lt lo.isLt, Nat.shiftLeft_eq, Nat.mul_comm]

theorem le16_eq_toNat (b0 b1 : Byte) : le16 b0 b1 = (b1 ++ b0 : BitVec 16).toNat := by
  rw [toNat_append_byte, le16]
  omega

theorem le24_eq_toNat (b0 b1 b2 : Byte) : le24 b0 b1 b2 = (b2 ++ b1 ++ b0 : BitVec 24).toNat := by
  rw [toNat_append_byte, toNat_append_byte, le24]
  omega

theorem le32_eq_toNat (b0 b1 b2 b3 : Byte) : le32 b0 b1 b2 b3 = (b3 ++ b2 ++ b1 ++ b0 : BitVec 32).toNat := by
  rw [toNat_append_byte, toNat_append_byte, toNat_append_byte, le32]
  omega

/-- `sext_N` of an N-bit value is its signed reading. -/
theorem sext_toNat {n : Nat} (x : BitVec n) : sext n x.toNat = x.toInt := by
  rw [sext, BitVec.toInt_eq_msb_cond, BitVec.msb_eq_getLsbD_last, BitVec.testBit_toNat, Nat.cast_pow, Nat.cast_ofNat]

theorem i16At_eq_toInt (body : List Byte) (p : Nat) :
    i16At body p = (byteAt body (p + 1) ++ byteAt body p : BitVec 16).toInt := by
  rw [i16At, le16_eq_toNat, sext_toNat]

theorem i24At_eq_toInt (body : List Byte) (p : Nat) :
    i24At body p = (byteAt body (p + 2) ++ byteAt body (p + 1) ++ byteAt body p : BitVec 24).toInt := by
  rw [i24At, le24_eq_toNat, sext_toNat]

theorem tagOf_cons (c g0 g1 : Byte) (more : List Byte) : tagOf (c :: g0 :: g1 :: more) = g1 ++ g0 := by
  change BitVec.ofNat 16 (le16 g0 g1) = g1 ++ g0
  rw [le16_eq_toNat, BitVec.ofNat_toNat, BitVec.setWidth_eq]

theorem tsOf_cons (c g0 g1 t0 t1 t2 t3 : Byte) (more : List Byte) :
    tsOf (c :: g0 :: g1 :: t0 :: t1 :: t2 :: t3 :: more) = t3 ++ t2 ++ t1 ++ t0 := by
  change BitVec.ofNat 32 (le32 t0 t1 t2 t3) = t3 ++ t2 ++ t1 ++ t0
  rw [le32_eq_toNat, BitVec.ofNat_toNat, BitVec.setWidth_eq]

/-- Settles O50: each field is `sext` of bytes that stand side by side in one bit vector. -/
theorem rawFieldsAreTwosComplement : Obligations.RawFieldsAreTwosComplement := by
  unfold Obligations.RawFieldsAreTwosComplement
  intro body p
  refine ⟨i16At_eq_toInt body p, i24At_eq_toInt body p, ?_⟩
  rw [i16At_eq_toInt, i24At_eq_toInt]
  exact ⟨BitVec.le_toInt _, Int.le_of_lt_add_one BitVec.toInt_lt,
    BitVec.le_toInt _, Int.le_of_lt_add_one BitVec.toInt_lt⟩

/-! ### Physical values: finite and signed (R166) -/

theorem or_signBit_toNat {m : F32} (hm : m.toNat < 2 ^ 31) : (m ||| 0x80000000).toNat = 2 ^ 31 + m.toNat := by
  rw [BitVec.toNat_or, Nat.or_comm]
  exact (Nat.shiftLeft_add_eq_or_of_lt hm 1).symm

/-- A physical value is the rounded magnitude, with the sign bit for a negative raw value. -/
theorem phys_toNat (raw : Int) (s : F32) :
    (phys raw s).toNat = (if raw < 0 then 2 ^ 31 else 0) + (rne32 (raw.natAbs * magnitude149 s) (2 ^ 149)).toNat := by
  simp only [phys]
  split
  · exact or_signBit_toNat (rne32_toNat_lt ..)
  · exact (Nat.zero_add _).symm

theorem roundUnit_le {P : Nat} (hP : P < 2 ^ 272) : roundUnit P ≤ 248 := by
  rcases eq_or_ne P 0 with rfl | hne
  · decide
  · have hlog := (Nat.log2_lt hne).mpr hP
    unfold roundUnit
    omega

/-- What stays below 2^123 rounds to a finite pattern. -/
theorem rne32_finite {P : Nat} (hP : P < 2 ^ 272) : (rne32 P (2 ^ 149)).toNat < 0x7F800000 := by
  have hsig := roundSignificand_le P
  have hunit := roundUnit_le hP
  rw [rne32_toNat hP]
  omega

/-- Nothing but 0 rounds to 0: where the unit is 2^-149, nothing is rounded, and above it the significand is full. -/
theorem rne32_eq_zero_iff {P : Nat} (hP : P < 2 ^ 272) : (rne32 P (2 ^ 149)).toNat = 0 ↔ P = 0 := by
  rw [rne32_toNat hP]
  constructor
  · intro hzero
    have hunit : roundUnit P = 0 := by omega
    have hfloor := div_le_roundHalfEven P (2 ^ roundUnit P)
    rw [← roundSignificand, hunit, pow_zero, Nat.div_one] at hfloor
    omega
  · rintro rfl
    decide

theorem scale_magnitude_pos (k : Config.Scale) : 0 < magnitude149 k.bits := by
  have hbits : k.bits.toNat = k.val + 1 := by
    simp only [Config.Scale.bits, BitVec.toNat_ofNat]
    omega
  rw [magnitude149_eq_patternValue (by omega)]
  exact (Nat.zero_le _).trans_lt (patternValue_strictMono (by omega : 0 < k.bits.toNat))

/-- Settles O51: the magnitude is finite, 0 for a zero product only, and the sign stands above it. -/
theorem physIsFiniteAndSigned : Obligations.PhysIsFiniteAndSigned := by
  unfold Obligations.PhysIsFiniteAndSigned
  intro raw k hraw
  have hP := product_lt k hraw
  have hphys := phys_toNat raw k.bits
  have hfin := rne32_finite hP
  have hzero : (rne32 (raw.natAbs * magnitude149 k.bits) (2 ^ 149)).toNat = 0 ↔ raw = 0 := by
    rw [rne32_eq_zero_iff hP, Nat.mul_eq_zero, Int.natAbs_eq_zero, or_iff_left (scale_magnitude_pos k).ne']
  refine ⟨fun hexp => ?_, ?_, ?_⟩
  · have hexp : (phys raw k.bits).toNat / 2 ^ 23 % 2 ^ 8 = 255 := by
      rw [← Nat.shiftRight_eq_div_pow, ← BitVec.extractLsb'_toNat, hexp]
      rfl
    split at hphys <;> omega
  · rw [BitVec.msb_eq_decide, decide_eq_decide]
    split at hphys <;> omega
  · have hpattern : phys raw k.bits = 0 ↔ (phys raw k.bits).toNat = 0 := BitVec.toNat_inj.symm
    rw [hpattern]
    split at hphys <;> omega

/-! ### The groups -/

theorem Group.mem_order (g : Group) : g ∈ Group.order := by cases g <;> decide

theorem Group.nodup_order : Group.order.Nodup := by decide

theorem Group.getElem_order_index (g : Group) : ∃ h : g.index < Group.order.length, Group.order[g.index] = g := by
  cases g <;> exact ⟨by decide, rfl⟩

theorem Group.index_injective {g h : Group} (heq : g.index = h.index) : g = h := by
  obtain ⟨_, hg⟩ := Group.getElem_order_index g
  obtain ⟨_, hh⟩ := Group.getElem_order_index h
  rw [← hg, ← hh]
  simp only [heq]

theorem Group.index_lt (g : Group) : g.index < 7 := (Group.getElem_order_index g).1

/-- Every one of the low seven tag bits selects a group. -/
theorem Group.exists_index_eq {i : Nat} (hi : i < 7) : ∃ g : Group, g.index = i := by
  refine ⟨Group.order[i], ?_⟩
  decide +revert

/-! ### The record of a report, field by field (R167 to R177) -/

/-- The record before the first group (R167, R168). -/
def headerOf (body : List Byte) : Sample := { Sample.default with tag := tagOf body, ts := tsOf body }

/-- Group `g` is decoded at its place in the body and marked present (R163, R170). -/
def placeGroup (body : List Byte) (rec : Sample) (g : Group) : Sample :=
  markPresent g (decodeGroup g body (groupStart (tagOf body) g) rec)

/-- The model's loop decodes the groups that are selected and fit, each at its place. -/
theorem decodeReport_fst (body : List Byte) :
    (decodeReport body).1 =
      (Group.order.filter (groupFits (tagOf body) body.length)).foldl (placeGroup body) (headerOf body) :=
  congrArg Prod.fst (decodeGroups_eq body Group.order Group.nodup_order Config.reportPrefix (headerOf body))

/-- The model's loop is cut short at the first group that is selected and does not fit, at its place. -/
theorem decodeReport_snd (body : List Byte) :
    (decodeReport body).2 =
      (Group.order.find? fun g => g.selected (tagOf body) && !groupFits (tagOf body) body.length g).map
        fun g => (g, groupStart (tagOf body) g) :=
  congrArg Prod.snd (decodeGroups_eq body Group.order Group.nodup_order Config.reportPrefix (headerOf body))

/-- What no group writes is as before. -/
theorem foldl_placeGroup_of_kept {α : Type} {f : Sample → α} {body : List Byte}
    (hkeep : ∀ g rec, f (placeGroup body rec g) = f rec) (gs : List Group) (rec : Sample) :
    f (gs.foldl (placeGroup body) rec) = f rec := by
  induction gs generalizing rec with
  | nil => rfl
  | cons g gs ih => rw [List.foldl_cons, ih, hkeep]

/-- `f` is written by group `g` alone, which writes `v` to it. -/
def WrittenBy {α : Type} (f : Sample → α) (g : Group) (body : List Byte) (v : α) : Prop :=
  ∀ h rec, f (placeGroup body rec h) = if h = g then v else f rec

namespace WrittenBy

variable {α : Type} {f : Sample → α} {g : Group} {body : List Byte} {v : α}

theorem foldl_placeGroup (hw : WrittenBy f g body v) (gs : List Group) (rec : Sample) :
    f (gs.foldl (placeGroup body) rec) = if g ∈ gs then v else f rec := by
  induction gs using List.reverseRecOn with
  | nil => rfl
  | append_singleton gs h ih =>
    rw [List.foldl_concat, hw, ih]
    rcases eq_or_ne h g with rfl | hne
    · simp
    · simp [hne, hne.symm]

/-- A group's field holds what the group writes if the group is selected and fits, and its default if not (R164, R167). -/
theorem decodeReport_eq (hw : WrittenBy f g body v) :
    f (decodeReport body).1 = if groupFits (tagOf body) body.length g = true then v else f (headerOf body) := by
  simp only [decodeReport_fst, hw.foldl_placeGroup, List.mem_filter, Group.mem_order, true_and]

end WrittenBy

theorem decodeReport_tag (body : List Byte) : (decodeReport body).1.tag = tagOf body := by
  rw [decodeReport_fst]
  exact foldl_placeGroup_of_kept (f := Sample.tag) (fun g _ => decodeGroup_tag g ..) _ _

theorem decodeReport_ts (body : List Byte) : (decodeReport body).1.ts = tsOf body := by
  rw [decodeReport_fst]
  exact foldl_placeGroup_of_kept (f := Sample.ts) (fun g _ => decodeGroup_ts g ..) _ _

theorem markPresent_getLsbD (g h : Group) (rec : Sample) :
    (markPresent h rec).present.getLsbD g.index = (rec.present.getLsbD g.index || decide (h = g)) := by
  have hbit : decide (h.index = g.index) = decide (h = g) := decide_eq_decide.mpr ⟨Group.index_injective, congrArg _⟩
  simp only [markPresent, BitVec.getLsbD_or, BitVec.getLsbD_ofNat, Nat.testBit_two_pow, hbit, Group.index_lt, decide_true,
    Bool.true_and]

/-- R170: a group's bit is in `present` exactly when the group is selected and fits. -/
theorem decodeReport_present (body : List Byte) (g : Group) :
    (decodeReport body).1.present.getLsbD g.index = groupFits (tagOf body) body.length g := by
  have hw : WrittenBy (fun rec => rec.present.getLsbD g.index) g body true := by
    intro h rec
    simp only [placeGroup, markPresent_getLsbD, decodeGroup_present]
    by_cases hh : h = g <;> simp [hh]
  simpa [headerOf, Sample.default] using hw.decodeReport_eq

/-- Nothing is cut short exactly when every selected group fits (R164). -/
theorem decodeReport_snd_eq_none_iff (body : List Byte) :
    (decodeReport body).2 = none ↔
      ∀ g : Group, g.selected (tagOf body) = true → groupFits (tagOf body) body.length g = true := by
  simp [decodeReport_snd, List.find?_eq_none, Group.mem_order]

/-- The loop is cut short at the first selected group that does not fit (R164). -/
theorem decodeReport_snd_of_first {body : List Byte} {g : Group} (hsel : g.selected (tagOf body) = true)
    (hfit : groupFits (tagOf body) body.length g = false)
    (hbefore : ∀ h : Group, h.index < g.index → h.selected (tagOf body) = true →
      groupFits (tagOf body) body.length h = true) :
    (decodeReport body).2 = some (g, groupStart (tagOf body) g) := by
  obtain ⟨hlt, hg⟩ := Group.getElem_order_index g
  have hfind : (Group.order.find? fun g => g.selected (tagOf body) && !groupFits (tagOf body) body.length g) = some g := by
    refine List.find?_eq_some_iff_getElem.mpr ⟨by simp [hsel, hfit], g.index, hlt, hg, fun j hj => ?_⟩
    obtain ⟨h, rfl⟩ := Group.exists_index_eq (hj.trans hlt)
    obtain ⟨_, hh⟩ := Group.getElem_order_index h
    simpa [hh, ← Bool.not_eq_true, ← imp_iff_not_or] using hbefore h hj
  rw [decodeReport_snd, hfind, Option.map_some]

/-! ### What CMD_SENSOR_REPORT answers (R160, R162) -/

theorem exec_cmdSensorReport (rest : List Byte) (s : State) :
    exec (.cmdSensorReport rest) s = .next (s.emit (reportEvents (Config.cmdReport :: rest))) := rfl

/-- A report's sample and the DIAG before it are what its body decodes to, and a body under 7 bytes gives no sample. -/
theorem reports_iff {rest : List Byte} {s : State} {ds : List Event} {rec : Sample} :
    Reports rest s ds rec ↔ 7 ≤ rest.length + 1 ∧ ds = truncationEvents (decodeReport (0x11 :: rest)).2 ∧
      rec = (decodeReport (0x11 :: rest)).1 := by
  have hevents : Reports rest s ds rec ↔ ds ++ [.sample rec] = reportEvents (0x11 :: rest) := by
    constructor
    · rintro ⟨t, hexec, -, hout⟩
      obtain rfl := Host.Outcome.next.inj hexec
      exact (List.append_cancel_left hout).symm
    · intro h
      exact ⟨_, exec_cmdSensorReport rest s, emit_onlyOutChanged s _, congrArg (s.out ++ ·) h.symm⟩
  rw [hevents, reportEvents]
  split
  next hshort =>
    have hlen : rest.length + 1 < 7 := hshort
    refine iff_of_false (fun h => ?_) fun h => absurd h.1 (by omega)
    have hlast := congrArg List.getLast? h
    simp at hlast
  next hlong =>
    have hlen : 7 ≤ rest.length + 1 := Nat.le_of_not_lt hlong
    simp [hlen]

theorem reports_decodeReport {rest : List Byte} (s : State) (hlen : 7 ≤ rest.length + 1) :
    Reports rest s (truncationEvents (decodeReport (0x11 :: rest)).2) (decodeReport (0x11 :: rest)).1 :=
  reports_iff.mpr ⟨hlen, rfl, rfl⟩

theorem truncationEvents_eq_nil_iff {o : Option (Group × Nat)} : truncationEvents o = [] ↔ o = none := by
  cases o <;> simp [truncationEvents]

/-- Settles O41: the arm emits one DIAG and changes nothing else. -/
theorem otherCommandsAreIgnored : Obligations.OtherCommandsAreIgnored := by
  unfold Obligations.OtherCommandsAreIgnored
  intro c rest s _
  exact ⟨_, rfl, emit_onlyOutChanged s _, rfl⟩

/-- A body of seven bytes holds the command, the tag and the timestamp, and no group. -/
theorem groupFits_seven (tag : BitVec 16) (g : Group) : groupFits tag 7 g = false := by
  have hstart : Config.reportPrefix ≤ groupStart tag g := Nat.le_add_right ..
  have hwidth : 0 < g.width := by cases g <;> decide
  have hprefix : Config.reportPrefix = 7 := rfl
  simp only [groupFits, Bool.and_eq_false_imp, decide_eq_false_iff_not]
  omega

/-- Settles O42: the length check comes first, and no group fits in seven bytes. -/
theorem shortReportGivesNoSample : Obligations.ShortReportGivesNoSample := by
  unfold Obligations.ShortReportGivesNoSample
  intro rest s
  constructor
  · intro hshort
    have hevents : reportEvents (Config.cmdReport :: rest) = [.diag .shortReport [BitVec.ofNat 8 (rest.length + 1)]] :=
      if_pos hshort
    exact ⟨_, exec_cmdSensorReport rest s, emit_onlyOutChanged s _, congrArg (s.out ++ ·) hevents⟩
  · intro hseven
    refine ⟨_, _, reports_decodeReport s hseven.ge, BitVec.eq_of_getLsbD_eq fun i hi => ?_⟩
    obtain ⟨g, rfl⟩ := Group.exists_index_eq hi
    rw [decodeReport_present, List.length_cons, hseven, groupFits_seven]
    exact BitVec.getLsbD_zero.symm

/-- Settles O43: the loop leaves the tag and the timestamp, and is cut short at most once. -/
theorem reportGivesOneSample : Obligations.ReportGivesOneSample := by
  unfold Obligations.ReportGivesOneSample
  intro g0 g1 t0 t1 t2 t3 groups s
  refine ⟨_, _, reports_decodeReport s (by simp), ?_, ?_, ?_⟩
  · cases (decodeReport (0x11 :: g0 :: g1 :: t0 :: t1 :: t2 :: t3 :: groups)).2 with
    | none => exact .inl rfl
    | some cut => exact .inr ⟨cut.1.bit, BitVec.ofNat 8 cut.2, rfl⟩
  · rw [decodeReport_tag, tagOf_cons]
  · rw [decodeReport_ts, tsOf_cons]

/-- `present` is the tag's low seven bits exactly when every selected group fits: what fits is selected. -/
theorem present_eq_tag_iff (body : List Byte) :
    (decodeReport body).1.present = (tagOf body).setWidth 7 ↔ (decodeReport body).2 = none := by
  have hbit (g : Group) : ((tagOf body).setWidth 7).getLsbD g.index = g.selected (tagOf body) := by
    simp [Group.index_lt, Group.selected]
  rw [decodeReport_snd_eq_none_iff]
  constructor
  · intro h g hsel
    rw [← decodeReport_present, h, hbit, hsel]
  · intro h
    refine BitVec.eq_of_getLsbD_eq fun i hi => ?_
    obtain ⟨g, rfl⟩ := Group.exists_index_eq hi
    rw [decodeReport_present, hbit]
    by_cases hsel : g.selected (tagOf body) = true
    · rw [h g hsel, hsel]
    · simp [groupFits, hsel]

/-- Settles O44: bit by bit, and both sides of the equivalence say that every selected group fits. -/
theorem presentMaskIsExact : Obligations.PresentMaskIsExact := by
  unfold Obligations.PresentMaskIsExact
  intro rest s hlen
  refine ⟨_, _, reports_decodeReport s hlen, decodeReport_present _, ?_⟩
  rw [decodeReport_tag, present_eq_tag_iff, truncationEvents_eq_nil_iff]

/-- Settles O45: the loop's search for a group that does not fit. -/
theorem truncationNamesFirstGroup : Obligations.TruncationNamesFirstGroup := by
  unfold Obligations.TruncationNamesFirstGroup
  intro rest s hlen
  refine ⟨_, _, reports_decodeReport s hlen, fun hall => ?_, fun g hsel hfit hbefore => ?_⟩
  · exact truncationEvents_eq_nil_iff.mpr ((decodeReport_snd_eq_none_iff _).mpr hall)
  · rw [decodeReport_snd_of_first hsel hfit hbefore, truncationEvents]

/-! ### The fields of the groups (R171 to R177) -/

theorem axesOf_of_writtenBy {f : Sample → Vec3} {g : Group} {scale : F32} {body : List Byte}
    (hw : WrittenBy f g body (vec3At scale body (groupStart (tagOf body) g))) (hdefault : f (headerOf body) = Vec3.absent) :
    AxesOf g scale body (f (decodeReport body).1) := by
  rw [AxesOf, hw.decodeReport_eq, hdefault]
  split
  · exact ⟨⟨rfl, rfl⟩, ⟨rfl, rfl⟩, rfl, rfl⟩
  · exact ⟨⟨rfl, rfl⟩, ⟨rfl, rfl⟩, rfl, rfl⟩

section

variable (body : List Byte)

theorem acc_writtenBy : WrittenBy Sample.acc .accel body (vec3At scaleAccel body (groupStart (tagOf body) .accel)) :=
  fun h _ => by cases h <;> rfl

theorem accg_writtenBy :
    WrittenBy Sample.accg .accelGravity body (vec3At scaleAccel body (groupStart (tagOf body) .accelGravity)) :=
  fun h _ => by cases h <;> rfl

theorem gyr_writtenBy :
    WrittenBy Sample.gyr .angularRate body
      (vec3At Config.scaleAngleSpeed.bits body (groupStart (tagOf body) .angularRate)) :=
  fun h _ => by cases h <;> rfl

theorem mag_writtenBy :
    WrittenBy Sample.mag .magnetic body (vec3At Config.scaleMag.bits body (groupStart (tagOf body) .magnetic)) :=
  fun h _ => by cases h <;> rfl

theorem eul_writtenBy :
    WrittenBy Sample.eul .euler body (vec3At Config.scaleAngle.bits body (groupStart (tagOf body) .euler)) :=
  fun h _ => by cases h <;> rfl

theorem temp_writtenBy : WrittenBy Sample.temp .environment body
    (reading16 Config.scaleTemperature.bits body (groupStart (tagOf body) .environment)) :=
  fun h _ => by cases h <;> rfl

theorem press_writtenBy : WrittenBy Sample.press .environment body
    (reading24 Config.scaleAirPressure.bits body (groupStart (tagOf body) .environment + 2)) :=
  fun h _ => by cases h <;> rfl

theorem height_writtenBy : WrittenBy Sample.height .environment body
    (reading24 Config.scaleHeight.bits body (groupStart (tagOf body) .environment + 5)) :=
  fun h _ => by cases h <;> rfl

/-- The four components of a quaternion from body index `c`, in the order w, x, y, z (R176). -/
def quatAt (c : Nat) : Quat :=
  ⟨reading16 Config.scaleQuat.bits body c, reading16 Config.scaleQuat.bits body (c + 2),
    reading16 Config.scaleQuat.bits body (c + 4), reading16 Config.scaleQuat.bits body (c + 6)⟩

theorem quat_writtenBy : WrittenBy Sample.quat .quaternion body (quatAt body (groupStart (tagOf body) .quaternion)) :=
  fun h _ => by cases h <;> rfl

end

/-- R171's corner values. -/
theorem phys_scaleAccel_corners : phys (-32768) scaleAccel = 0xC31CCCCD ∧ phys 32767 scaleAccel = 0x431CCB93 := by decide

/-- Settles O46: each group writes its own axes, and no other group does. -/
theorem axisGroupsAreDecoded : Obligations.AxisGroupsAreDecoded := by
  unfold Obligations.AxisGroupsAreDecoded
  exact ⟨phys_scaleAccel_corners, fun rest s hlen => ⟨_, _, reports_decodeReport s hlen,
    axesOf_of_writtenBy (acc_writtenBy _) rfl, axesOf_of_writtenBy (accg_writtenBy _) rfl,
    axesOf_of_writtenBy (gyr_writtenBy _) rfl, axesOf_of_writtenBy (mag_writtenBy _) rfl,
    axesOf_of_writtenBy (eul_writtenBy _) rfl⟩⟩

/-- Settles O47: the three fields are written together, by the one group. -/
theorem environmentGroupIsDecoded : Obligations.EnvironmentGroupIsDecoded := by
  unfold Obligations.EnvironmentGroupIsDecoded
  intro rest s hlen
  refine ⟨_, _, reports_decodeReport s hlen, ?_⟩
  rw [(temp_writtenBy _).decodeReport_eq, (press_writtenBy _).decodeReport_eq, (height_writtenBy _).decodeReport_eq,
    List.length_cons]
  split
  · exact ⟨⟨rfl, rfl⟩, ⟨rfl, rfl⟩, rfl, rfl⟩
  · exact ⟨⟨rfl, rfl⟩, ⟨rfl, rfl⟩, rfl, rfl⟩

/-- Settles O48: the quaternion is written by its group alone. -/
theorem quaternionGroupIsDecoded : Obligations.QuaternionGroupIsDecoded := by
  unfold Obligations.QuaternionGroupIsDecoded
  intro rest s hlen
  refine ⟨_, _, reports_decodeReport s hlen, ?_⟩
  rw [(quat_writtenBy _).decodeReport_eq, List.length_cons]
  split
  · exact ⟨⟨rfl, rfl⟩, ⟨rfl, rfl⟩, ⟨rfl, rfl⟩, rfl, rfl⟩
  · exact ⟨⟨rfl, rfl⟩, ⟨rfl, rfl⟩, ⟨rfl, rfl⟩, rfl, rfl⟩

/-! ### What a report does not depend on (R169) -/

/-- The `n` bytes from body index `c` are the same in both bodies. -/
def SameBytes (body body' : List Byte) (c n : Nat) : Prop := ∀ k < n, byteAt body' (c + k) = byteAt body (c + k)

section

variable {body body' : List Byte} {c n : Nat}

theorem SameBytes.reading16_eq (h : SameBytes body body' c n) (scale : F32) {k : Nat} (hk : k + 2 ≤ n) :
    reading16 scale body' (c + k) = reading16 scale body (c + k) := by
  simp only [reading16, i16At, Nat.add_assoc, h k (by omega), h (k + 1) (by omega)]

theorem SameBytes.reading24_eq (h : SameBytes body body' c n) (scale : F32) {k : Nat} (hk : k + 3 ≤ n) :
    reading24 scale body' (c + k) = reading24 scale body (c + k) := by
  simp only [reading24, i24At, Nat.add_assoc, h k (by omega), h (k + 1) (by omega), h (k + 2) (by omega)]

theorem SameBytes.vec3At_eq (h : SameBytes body body' c 6) (scale : F32) : vec3At scale body' c = vec3At scale body c := by
  have h0 := h.reading16_eq scale (k := 0) (by decide)
  simp only [Nat.add_zero] at h0
  simp only [vec3At, h0, h.reading16_eq scale (k := 2) (by decide), h.reading16_eq scale (k := 4) (by decide)]

/-- A group reads the bytes of its own width only. -/
theorem SameBytes.decodeGroup_eq {g : Group} (h : SameBytes body body' c g.width) (rec : Sample) :
    decodeGroup g body' c rec = decodeGroup g body c rec := by
  have h0 (scale : F32) : reading16 scale body' c = reading16 scale body c :=
    h.reading16_eq scale (k := 0) (by cases g <;> decide)
  cases g with
  | accel => simp only [decodeGroup, decodeAccel, h.vec3At_eq]
  | accelGravity => simp only [decodeGroup, decodeAccelGravity, h.vec3At_eq]
  | angularRate => simp only [decodeGroup, decodeAngularRate, h.vec3At_eq]
  | magnetic => simp only [decodeGroup, decodeMagnetic, h.vec3At_eq]
  | environment =>
    simp only [decodeGroup, decodeEnvironment, h0, h.reading24_eq _ (k := 2) (by decide),
      h.reading24_eq _ (k := 5) (by decide)]
  | quaternion =>
    simp only [decodeGroup, decodeQuaternion, h0, h.reading16_eq _ (k := 2) (by decide),
      h.reading16_eq _ (k := 4) (by decide), h.reading16_eq _ (k := 6) (by decide)]
  | euler => simp only [decodeGroup, decodeEuler, h.vec3At_eq]

end

/-- The record with another tag. -/
def retag (t : BitVec 16) (rec : Sample) : Sample := { rec with tag := t }

theorem placed_retag (g : Group) (body : List Byte) (c : Nat) (t : BitVec 16) (rec : Sample) :
    markPresent g (decodeGroup g body c (retag t rec)) = retag t (markPresent g (decodeGroup g body c rec)) := by
  cases g <;> rfl

/-- A tag that selects the same groups, over bytes that are the same from the cursor on, gives the same record but for the
tag, and is cut short at the same place. -/
theorem decodeGroups_retag {body body' : List Byte} {gs : List Group} {c : Nat} {t : BitVec 16} {rec : Sample}
    (hlen : body'.length = body.length) (hbytes : ∀ i, c ≤ i → byteAt body' i = byteAt body i)
    (hsel : ∀ g : Group, g.selected t = g.selected rec.tag) :
    decodeGroups body' gs c (retag t rec) = (decodeGroups body gs c rec).map (retag t) id := by
  induction gs generalizing c rec with
  | nil => rfl
  | cons g gs ih =>
    have htag : (retag t rec).tag = t := rfl
    rw [decodeGroups, decodeGroups, htag, hsel, hlen]
    by_cases hs : g.selected rec.tag = true
    · by_cases hcut : body.length < c + g.width
      · simp only [hs, hcut, if_true]
        rfl
      · have hsame : SameBytes body body' c g.width := fun k _ => hbytes _ (Nat.le_add_right c k)
        simp only [hs, hcut, if_true, if_false, hsame.decodeGroup_eq, placed_retag]
        exact ih (fun i hi => hbytes i (by omega)) (by simpa using hsel)
    · simp only [hs, if_false, Bool.false_eq_true]
      exact ih hbytes hsel

theorem byteAt_append (body extra : List Byte) {i : Nat} (hi : i < body.length) :
    byteAt (body ++ extra) i = byteAt body i := List.getD_append _ _ _ _ hi

/-- Where nothing is cut short, bytes appended to the body are not read. -/
theorem decodeGroups_append {body : List Byte} (extra : List Byte) {gs : List Group} {c : Nat} {rec : Sample}
    (hwhole : (decodeGroups body gs c rec).2 = none) :
    decodeGroups (body ++ extra) gs c rec = decodeGroups body gs c rec := by
  induction gs generalizing c rec with
  | nil => rfl
  | cons g gs ih =>
    rw [decodeGroups] at hwhole ⊢
    rw [decodeGroups]
    by_cases hs : g.selected rec.tag = true
    · by_cases hcut : body.length < c + g.width
      · simp [hs, hcut] at hwhole
      · have hsame : SameBytes body (body ++ extra) c g.width := fun k hk => byteAt_append body extra (by omega)
        have hcut' : ¬ (body ++ extra).length < c + g.width := by rw [List.length_append]; omega
        simp only [hs, hcut, if_true, if_false] at hwhole
        simp only [hs, hcut, hcut', if_true, if_false, hsame.decodeGroup_eq]
        exact ih hwhole
    · simp only [hs, if_false, Bool.false_eq_true] at hwhole ⊢
      exact ih hwhole

/-- Only the low seven bits of the tag's low byte select groups (D14). -/
theorem selected_congr {g0 g0' : Byte} (g1 g1' : Byte) (h : g0 &&& 0x7F = g0' &&& 0x7F) (g : Group) :
    g.selected (g1 ++ g0) = g.selected (g1' ++ g0') := by
  have hi := g.index_lt
  have hmask : (0x7F : Byte).getLsbD g.index = true := by cases g <;> rfl
  have hbit : (g0 &&& 0x7F).getLsbD g.index = (g0' &&& 0x7F).getLsbD g.index := by rw [h]
  rw [BitVec.getLsbD_and, BitVec.getLsbD_and, hmask, Bool.and_true, Bool.and_true] at hbit
  rw [Group.selected, Group.selected, BitVec.getLsbD_append, BitVec.getLsbD_append, if_pos (by omega),
    if_pos (by omega), hbit]

/-- A report whose tag differs in the ignored bits alone decodes to the same, but for the tag. -/
theorem decodeReport_high_tag_bits {c g0 g1 g0' g1' : Byte} {more : List Byte} (h : g0 &&& 0x7F = g0' &&& 0x7F) :
    decodeReport (c :: g0' :: g1' :: more) = (decodeReport (c :: g0 :: g1 :: more)).map (retag (g1' ++ g0')) id := by
  have hafter (i : Nat) (hi : 3 ≤ i) : byteAt (c :: g0' :: g1' :: more) i = byteAt (c :: g0 :: g1 :: more) i := by
    obtain ⟨k, rfl⟩ := Nat.exists_eq_add_of_le' hi
    rfl
  have hsel (g : Group) : g.selected (g1' ++ g0') = g.selected (headerOf (c :: g0 :: g1 :: more)).tag := by
    rw [headerOf, tagOf_cons, selected_congr g1' g1 h.symm]
  have hheader : headerOf (c :: g0' :: g1' :: more) = retag (g1' ++ g0') (headerOf (c :: g0 :: g1 :: more)) := by
    rw [headerOf, tagOf_cons]
    rfl
  change decodeGroups _ _ _ (headerOf _) = _
  rw [hheader]
  exact decodeGroups_retag rfl (fun i hi => hafter i (Nat.le_trans (by decide) hi)) hsel

/-- Bytes after the last group of a report that was not cut short change nothing (D15). -/
theorem decodeReport_append {body : List Byte} (extra : List Byte) (hlen : 7 ≤ body.length)
    (hwhole : (decodeReport body).2 = none) : decodeReport (body ++ extra) = decodeReport body := by
  have hheader : headerOf (body ++ extra) = headerOf body := by
    simp only [headerOf, tagOf, tsOf]
    simp (disch := omega) only [byteAt_append]
  change decodeGroups _ _ _ (headerOf _) = _
  rw [hheader]
  exact decodeGroups_append extra hwhole

/-- Settles O49: the high tag bits select nothing, and no group reads past the last one's bytes. -/
theorem highTagBitsAndTrailingBytesIgnored : Obligations.HighTagBitsAndTrailingBytesIgnored := by
  unfold Obligations.HighTagBitsAndTrailingBytesIgnored
  constructor
  · intro g0 g1 g0' g1' more s ds rec _ hlow hreport
    obtain ⟨hlen, rfl, rfl⟩ := reports_iff.mp hreport
    refine reports_iff.mpr ⟨hlen, ?_, ?_⟩ <;> rw [decodeReport_high_tag_bits hlow] <;> rfl
  · intro rest extra s rec hreport
    obtain ⟨hlen, hnone, rfl⟩ := reports_iff.mp hreport
    have hsame := decodeReport_append (body := 0x11 :: rest) extra hlen (truncationEvents_eq_nil_iff.mp hnone.symm)
    rw [List.cons_append] at hsame
    exact reports_iff.mpr ⟨by rw [List.length_append]; omega, by rw [hsame]; exact hnone, by rw [hsame]⟩

end Sys2Proof.Machine
end

section
/-! SUPPORT. The PacketBuilder (R200 to R210): SEND's length check, what the transport's answer makes of a frame, the
checksum as a number, and an outbound frame fed back, with the obligations O19, O32, O33, O34 and O37. -/

namespace Sys2Proof.Machine

/-! ### The transport's answer (R204 to R206) -/

theorem txReply_fst (txf : List Byte) (o : TxOutcome) : (txReply txf o).1 = txf.take (drawnBytes o) := by
  cases o <;> rfl

/-- R205: only the report that all bytes were written is a success. -/
theorem txReply_snd (txf : List Byte) (o : TxOutcome) :
    (txReply txf o).2 = if o = .written txf.length then .ok else .errTx := by
  cases o with
  | written k => simp [txReply]
  | failed j => rfl

theorem drawnBytes_le_of_legalDraw {len : Nat} {o : TxOutcome} (h : legalDraw len o) : drawnBytes o ≤ len := by
  cases o with
  | written k => exact h
  | failed j => exact h

/-! ### SEND (R200) -/

/-- A body of a length that the builder accepts is transmitted (R200, R204 to R206). -/
theorem exec_send_of_length_ok (a : Byte) {b : List Byte} (s : State) (hpos : 1 ≤ b.length) (hmax : b.length ≤ 31) :
    exec (.send a b) s = .next (s.emit [.tx ((build a b).take (drawnBytes s.txPort)),
      .result (if s.txPort = .written (55 + b.length) then .ok else .errTx)]) := by
  rw [exec_send_eq_emit, sendEvents, if_pos (txLengthOk_iff.mpr ⟨hpos, hmax⟩), txReply_fst, txReply_snd, build_length]

/-- Settles O32: the length check fails, and nothing is transmitted. -/
theorem sendRejectsWrongLength : Obligations.SendRejectsWrongLength := by
  unfold Obligations.SendRejectsWrongLength
  intro a b s hlen
  have hbad : ¬ txLengthOk b = true := by
    rw [txLengthOk_iff]
    omega
  refine ⟨_, exec_send_eq_emit a b s, emit_onlyOutChanged s _, ?_⟩
  rw [sendEvents, if_neg hbad]
  rfl

/-- Settles O33: the result is OK in one case of the transport's answer, in which the bytes sent are the whole frame. -/
theorem sendSucceedsOnFullWriteOnly : Obligations.SendSucceedsOnFullWriteOnly := by
  unfold Obligations.SendSucceedsOnFullWriteOnly
  intro a b s hpos hmax
  refine ⟨_, _, _, exec_send_of_length_ok a s hpos hmax, emit_onlyOutChanged s _, rfl, ?_⟩
  by_cases hall : s.txPort = .written (55 + b.length)
  · have hframe : (build a b).take (drawnBytes s.txPort) = build a b := by
      rw [hall, drawnBytes, ← build_length a b, List.take_length]
    exact ⟨iff_of_true (if_pos hall) hall, fun _ => hframe⟩
  · simp [hall]

/-- Settles O34: the bytes sent are the frame's first ones, as many as were drawn. -/
theorem sendFailureLeavesPrefix : Obligations.SendFailureLeavesPrefix := by
  unfold Obligations.SendFailureLeavesPrefix
  rintro a b _ s hpos hmax hlegal hshort rfl
  refine ⟨_, (build a b).take (drawnBytes s.txPort), exec_send_of_length_ok a s hpos hmax, emit_onlyOutChanged s _, ?_,
    List.take_prefix _ _, ?_⟩
  · rw [if_neg hshort]
    rfl
  · rw [List.length_take, build_length, Nat.min_eq_left (drawnBytes_le_of_legalDraw hlegal)]

/-! ### The checksum (R203) -/

theorem byteSum_toNat (bs : List Byte) : (byteSum bs).toNat = (bs.map BitVec.toNat).sum % 256 := by
  induction bs with
  | nil => rfl
  | cons b bs ih => simp [ih]

/-- Settles O37: a length byte that wraps counts the same modulo 256. -/
theorem checksumIsByteSumMod256 : Obligations.ChecksumIsByteSumMod256 := by
  unfold Obligations.ChecksumIsByteSumMod256
  intro a b
  rw [checksum, byteSum_toNat, List.map_cons, List.map_cons, List.sum_cons, List.sum_cons, lenByte, BitVec.toNat_ofNat]
  omega

/-! ### What the PayloadDecoder gives is no FRAME (R131, R160) -/

theorem frame_notMem_reportEvents (c : Byte) (b body : List Byte) : Event.frame c b ∉ reportEvents body := by
  unfold reportEvents
  split
  · simp
  · cases (decodeReport body).2 <;> simp [truncationEvents]

theorem payloadDecode_emits_no_frame {body : List Byte} {s t : State} (h : payloadDecode body s = .next t) :
    ∃ es, t = s.emit es ∧ ∀ c b, Event.frame c b ∉ es := by
  cases body with
  | nil => simp [payloadDecode] at h
  | cons d rest =>
    rw [payloadDecode_cons] at h
    refine ⟨_, (Host.Outcome.next.inj h).symm, fun c b => ?_⟩
    split
    · exact frame_notMem_reportEvents c b _
    · simp

end Sys2Proof.Machine

namespace Sys2Proof

open Machine

/-! ### An outbound frame fed back (R210) -/

/-- The command that a body decodes to is what the PayloadDecoder runs. -/
theorem exec_eq_payloadDecode {body : List Byte} {i : Instr} (hmax : body.length ≤ Config.maxBody)
    (hdec : decode (.inbound body) = .ok i) (s : State) : exec i s = payloadDecode body s := by
  cases body with
  | nil => simp [decode, decodeInbound] at hdec
  | cons c rest =>
    obtain ⟨j, es, hj, hrun⟩ := decode_inbound_runs hmax
    obtain rfl : i = j := Except.ok.inj (hdec.symm.trans hj)
    obtain ⟨hexec, hpayload⟩ := hrun s
    exact hexec.trans hpayload.symm

/-- What stands before the frame is skipped (R84). -/
theorem feedBytes_build (a : Byte) (b : List Byte) {s : State} (hs : s.state = .awaitStart) :
    feedBytes (build a b) s = feedBytes (frameBytes a b) s :=
  feedBytes_append_of_next (preambleAndSyncAreSkipped s hs) (frameBytes a b)

/-- Settles O19: after its preamble an outbound frame is a well-formed inbound one, and its command gives no FRAME. -/
theorem outboundFrameFedBackRoundTrips : Obligations.OutboundFrameFedBackRoundTrips := by
  unfold Obligations.OutboundFrameFedBackRoundTrips
  intro a b s hs ha hpos hmax htarget
  have hmax' : b.length ≤ 73 := hmax.trans (by decide)
  obtain ⟨i, u, t, hdec, hexec, hfeed, hout, hstate, -⟩ := wellFormedFrameIsReceived a b s hs ha hpos hmax' htarget.symm
  have hpayload := (exec_eq_payloadDecode hmax' hdec _).symm.trans hexec
  obtain ⟨es, rfl, hnoFrame⟩ := payloadDecode_emits_no_frame hpayload
  refine ⟨i, _, t, es, hdec, hexec, (feedBytes_build a b hs).trans hfeed, hout, hstate, ?_, hnoFrame⟩
  rw [Emitted, hout, State.emit_out, List.append_assoc, List.singleton_append]

end Sys2Proof
end

section
/-! SUPPORT. RESET and SET_TARGET (R230 to R233), with the obligations O26 to O30. -/

namespace Sys2Proof

open Machine

/-! ### What the two operations change and leave -/

theorem exec_reset (s : State) : exec .reset s = .next s.abandon := rfl

theorem exec_setTarget (v : Byte) (s : State) : exec (.setTarget v) s = .next (s.setTarget v) := rfl

theorem abandon_abandon (s : State) : s.abandon.abandon = s.abandon := rfl

theorem attemptOver_abandon (s : State) : AttemptOver s s.abandon := by
  simpa only [State.emit_nil] using attemptOver_emit_abandon s []

theorem bufKept_setTarget (v : Byte) (s : State) : BufKept s (s.setTarget v) := fun _ => rfl

theorem emitted_nil_of_out_eq {s t : State} (h : t.out = s.out) : Emitted s t [] :=
  h.trans (List.append_nil s.out).symm

/-- Settles O26: RESET is Abandon, and Abandon gives no event. -/
theorem resetDropsAttempt : Obligations.ResetDropsAttempt := by
  unfold Obligations.ResetDropsAttempt
  intro s
  obtain ⟨hstate, hidx, hsum, -, hcontrol⟩ := attemptOver_abandon s
  exact ⟨s.abandon, exec_reset s, hstate, hidx, hsum, hcontrol, emitted_nil_of_out_eq s.abandon_out⟩

/-- Settles O28: SET_TARGET updates one register. -/
theorem setTargetWritesTargetOnly : Obligations.SetTargetWritesTargetOnly := by
  unfold Obligations.SetTargetWritesTargetOnly
  intro v s
  exact ⟨s.setTarget v, exec_setTarget v s, s.setTarget_targetAddr v, s.setTarget_state v, s.setTarget_idx v,
    s.setTarget_sum v, s.setTarget_refused v, s.setTarget_host v, s.setTarget_txPort v, bufKept_setTarget v s,
    emitted_nil_of_out_eq (s.setTarget_out v)⟩

/-- Settles O29: neither update writes a cell. -/
theorem controlOperationsLeaveBuffer : Obligations.ControlOperationsLeaveBuffer := by
  unfold Obligations.ControlOperationsLeaveBuffer
  refine ⟨fun s t h => ?_, fun v s t h => ?_⟩
  · obtain rfl := Host.Outcome.next.inj ((exec_reset s).symm.trans h)
    obtain ⟨-, -, -, hbuf, -⟩ := attemptOver_abandon s
    exact hbuf
  · obtain rfl := Host.Outcome.next.inj ((exec_setTarget v s).symm.trans h)
    exact bufKept_setTarget v s

/-! ### After RESET the decoder is the power-on one (R231) -/

/-- The power-on state with the target `a`. -/
def powerOn (a : Byte) : State := { State.reset with targetAddr := a }

theorem powerOn_frameInv (a : Byte) : FrameInv (powerOn a) := resetMeetsFrameInvariant.of_eq rfl rfl rfl rfl

/-- No byte is held after RESET, so that the cells of `buf` need not agree (R25). -/
theorem sameDecoder_powerOn_abandon (s : State) : SameDecoder (powerOn s.targetAddr) s.abandon :=
  ⟨rfl, rfl, rfl, rfl, fun i hi => absurd hi (Nat.not_lt_zero i)⟩

/-- Settles O27: FEED cannot tell the state after RESET from the power-on state with the same target. -/
theorem resetForgetsAttempt : Obligations.ResetForgetsAttempt := by
  unfold Obligations.ResetForgetsAttempt
  intro s bs
  obtain ⟨u, t, es, hu, ht, hout, htout, hstate, hidx, hsum, -, hread⟩ :=
    (sameDecoder_powerOn_abandon s).feedBytes (powerOn_frameInv s.targetAddr) bs
  have hes : u.out = es := hout
  have hevents : t.out = s.out ++ u.out := hes ▸ htout
  exact ⟨s.abandon, t, u, exec_reset s, (exec_reset s.abandon).trans (congrArg _ (abandon_abandon s)), ht, hu, hevents,
    hstate, hidx, hsum, hread⟩

/-! ### The target is read at the END_MARKER (R233) -/

/-- A completed frame gives its FRAME before any other event (R131). -/
theorem completeFrame_emits_frame_first {s t : State} (h : completeFrame s = .next t) :
    ∃ c body es, Emitted s t (.frame c body :: es) := by
  obtain ⟨_, body, u, -, -, hu, rfl⟩ := completeFrame_eq_next h
  obtain ⟨es, rfl⟩ := payloadDecode_eq_next hu
  exact ⟨body.headD 0, body, es, by simp [Emitted]⟩

/-- Under the invariant the END_MARKER of an accepted frame gives a FRAME first. -/
theorem FrameInv.feed_endMarker_accepted {s : State} (hinv : FrameInv s) (hs : s.state = .frameEnd)
    (haccept : s.targetAddr = Config.broadcast ∨ s.bufRead 1 = some s.targetAddr) :
    ∃ t, Machine.exec (.feed Config.endMarker) s = .next t ∧ ∃ c body es, Emitted s t (.frame c body :: es) := by
  obtain ⟨-, n, c, rest, -, hn, hbody⟩ := hinv.frame_read hs
  obtain ⟨t, ht⟩ := completeFrame_completes hn hbody
  exact ⟨t, (exec_feed_frameEnd _ hs).trans ((feedEnd_eq_completeFrame haccept).trans ht),
    completeFrame_emits_frame_first ht⟩

/-- Settles O30: the END_MARKER is fed in the state that SET_TARGET left, whose target is the new one. -/
theorem targetIsReadAtEnd : Obligations.TargetIsReadAtEnd := by
  unfold Obligations.TargetIsReadAtEnd
  intro v rAddr s hinv hs hread
  by_cases haccept : v = 255 ∨ rAddr = v
  · obtain ⟨t, ht, hframe⟩ :=
      (hinv.setTarget v).feed_endMarker_accepted hs (haccept.imp_right fun haddr => hread.trans (congrArg some haddr))
    exact ⟨s.setTarget v, t, exec_setTarget v s, ht, by rwa [if_pos haccept]⟩
  · obtain ⟨hall, hne⟩ := not_or.mp haccept
    obtain ⟨t, ht, -, hdiag⟩ := endDropsForeignAddress rAddr (s.setTarget v) hs hread hall hne
    exact ⟨s.setTarget v, t, exec_setTarget v s, ht, by rwa [if_neg haccept]⟩

end Sys2Proof
end

section
/-! SUPPORT. Completion and the host's duties (R253, R260, R275, R276, R280), with the obligations O13, O23, O31, O40 and
O59. -/

namespace Sys2Proof

open Machine

/-! ### Every step completes (R253, R280) -/

/-- Settles O59: the step looks at `host` first. -/
theorem stepWithoutOperationChangesNothing : Obligations.StepWithoutOperationChangesNothing := by
  unfold Obligations.StepWithoutOperationChangesNothing
  intro s hhost
  simp only [step, hhost]

/-- The step of a reserved word (R95). -/
theorem step_eq_refuse_take {op : HostOp} {rest : List HostOp} {e : DecodeError} {s : State} (hhost : s.host = op :: rest)
    (hdec : decode (.host op.word op.port) = .error e) : step s = .next (s.take op rest).refuse := by
  simp only [step, hhost, hdec]

/-- The step of an operation is that of an instruction, from a state that meets the invariant still. -/
theorem FrameInv.step_completes {s : State} (hinv : FrameInv s) : ∃ t, step s = .next t := by
  cases hhost : s.host with
  | nil => exact ⟨s, stepWithoutOperationChangesNothing s hhost⟩
  | cons op rest =>
    cases hdec : decode (.host op.word op.port) with
    | ok i =>
      rw [step_eq_exec_take hhost hdec]
      exact (hinv.take op rest).exec_completes i
    | error e => exact ⟨_, step_eq_refuse_take hhost hdec⟩

/-- Settles O13: no instruction faults under the invariant, and none writes `refused`. -/
theorem everyInstructionCompletes : Obligations.EveryInstructionCompletes := by
  unfold Obligations.EveryInstructionCompletes
  refine ⟨fun i s hinv => ?_, fun s hinv => hinv.step_completes⟩
  obtain ⟨t, ht⟩ := hinv.exec_completes i
  exact ⟨t, ht, exec_refused ht⟩

/-! ### What one FEED emits at most (R260) -/

/-- The three forms of what a 0x11 body gives: no sample, a sample, or a truncated one (R162, R164, R178). -/
theorem reportEvents_cases (body : List Byte) :
    reportEvents body = [.diag .shortReport [BitVec.ofNat 8 body.length]] ∨
    (∃ rec, reportEvents body = [.sample rec]) ∨
    ∃ g k rec, reportEvents body = [.diag .reportTruncated [g, k], .sample rec] := by
  unfold reportEvents
  split
  · exact .inl rfl
  · cases (decodeReport body).2 with
    | none => exact .inr (.inl ⟨_, rfl⟩)
    | some cut => exact .inr (.inr ⟨_, _, _, rfl⟩)

/-- A completed frame gives its FRAME, then CMD_IGNORED or a report's events (R131, R160, R161). -/
theorem completeFrame_emits {s t : State} (h : completeFrame s = .next t) :
    ∃ c body es, Emitted s t (.frame c body :: es) ∧ (es = [.diag .cmdIgnored [c]] ∨ es = reportEvents body) := by
  obtain ⟨_, body, u, -, -, hu, rfl⟩ := completeFrame_eq_next h
  cases body with
  | nil => simp [payloadDecode] at hu
  | cons c rest =>
    rw [payloadDecode_cons] at hu
    obtain rfl := Host.Outcome.next.inj hu
    refine ⟨c, c :: rest, _, List.append_assoc s.out [.frame c (c :: rest)] _, ?_⟩
    split
    · exact .inr rfl
    · exact .inl rfl

/-- Settles O23: a FEED that completes no frame gives one DIAG or nothing, and a completed frame gives one form of its
command's events. -/
theorem feedEmitsOneCondition : Obligations.FeedEmitsOneCondition := by
  unfold Obligations.FeedEmitsOneCondition
  intro b s t h
  rcases execFeed_cases h with ⟨-, -, rfl⟩ | ⟨-, -, rfl⟩ | ⟨-, -, rfl⟩ | ⟨-, -, -, rfl⟩ | ⟨-, n, -, -, rfl⟩ |
    ⟨-, -, rfl⟩ | ⟨-, code, info, rfl⟩ | ⟨-, -, hcomplete⟩
  · exact ⟨[], emitted_nil_of_out_eq rfl, .inl rfl⟩
  · exact ⟨[], emitted_nil_of_out_eq rfl, .inl rfl⟩
  · exact ⟨[], emitted_nil_of_out_eq rfl, .inl rfl⟩
  · exact ⟨[], emitted_nil_of_out_eq rfl, .inl rfl⟩
  · exact ⟨[], emitted_nil_of_out_eq rfl, .inl rfl⟩
  · exact ⟨[], emitted_nil_of_out_eq rfl, .inl rfl⟩
  · exact ⟨[.diag code info], rfl, .inr (.inl ⟨code, info, rfl⟩)⟩
  · obtain ⟨c, body, es, hes, hform⟩ := completeFrame_emits hcomplete
    refine ⟨_, hes, .inr (.inr ⟨c, body, ?_⟩)⟩
    rcases hform with rfl | rfl
    · exact .inl rfl
    · rcases reportEvents_cases body with hshort | ⟨rec, hsample⟩ | ⟨g, k, rec, hcut⟩
      · exact .inr (.inl (congrArg _ hshort))
      · exact .inr (.inr (.inl ⟨rec, congrArg _ hsample⟩))
      · exact .inr (.inr (.inr ⟨g, k, rec, congrArg _ hcut⟩))

/-! ### The configure sequence (R275) -/

/-- `s` after the step of a SEND of which every byte was written; `rest` is what the host has issued after it. -/
def sentFrom (s : State) (a : Byte) (b : List Byte) (rest : List HostOp) : State :=
  (s.take (sendOp (.written (55 + b.length)) a b) rest).emit [.tx (build a b), .result .ok]

theorem sentFrom_host (s : State) (a : Byte) (b : List Byte) (rest : List HostOp) : (sentFrom s a b rest).host = rest := rfl

theorem sentFrom_out (s : State) (a : Byte) (b : List Byte) (rest : List HostOp) :
    (sentFrom s a b rest).out = s.out ++ [.tx (build a b), .result .ok] := rfl

/-- The step of a SEND whose body the builder accepts, with a transport that writes every byte (R92, R200, R204). -/
theorem step_sendOp_all_written {a : Byte} {b : List Byte} {rest : List HostOp} {s : State} (hlen : txLengthOk b = true)
    (hhost : s.host = sendOp (.written (55 + b.length)) a b :: rest) : step s = .next (sentFrom s a b rest) :=
  (step_eq_exec_take hhost (decodeHost_hostWord 0x4 a b)).trans (transmit_all_written a hlen rfl)

/-- A run that begins with such a step. -/
theorem run_sendOp_all_written {a : Byte} {b : List Byte} {rest : List HostOp} {s : State} (hlen : txLengthOk b = true)
    (hhost : s.host = sendOp (.written (55 + b.length)) a b :: rest) (k : Nat) :
    Host.Core.run core (k + 1) s = Host.Core.run core k (sentFrom s a b rest) := by
  have hcore : core.step s = .next (sentFrom s a b rest) := step_sendOp_all_written hlen hhost
  simp only [Host.Core.run, hcore]

/-- Settles O40: each of the three operations is a SEND that succeeds, from the state that the one before it left. -/
theorem configureSequenceIsSent : Obligations.ConfigureSequenceIsSent := by
  unfold Obligations.ConfigureSequenceIsSent
  intro a p rest s hhost
  have hrun := calc
    Host.Core.run core 3 s
    _ = Host.Core.run core 2 (sentFrom s a p.body _) := run_sendOp_all_written rfl hhost 2
    _ = Host.Core.run core 1 (sentFrom _ a [Config.cmdWake] _) := run_sendOp_all_written rfl (sentFrom_host ..) 1
    _ = Host.Core.run core 0 (sentFrom _ a [Config.cmdAutoreport] rest) :=
      run_sendOp_all_written rfl (sentFrom_host ..) 0
  refine ⟨_, hrun, rfl, rfl, rfl, rfl, fun _ => rfl, rfl, rfl, ?_⟩
  simp only [Emitted, sentFrom_out, List.append_assoc, List.cons_append, List.nil_append]
  rfl

/-! ### RESET on reopening (R276, R300) -/

/-- From `s` and from `t` the instructions complete with the same events. -/
def SameEvents (is : List Instr) (s t : State) : Prop :=
  ∃ s' t' es, runAll is s = .next s' ∧ runAll is t = .next t' ∧ Emitted s s' es ∧ Emitted t t' es

namespace SameEvents

theorem nil (s t : State) : SameEvents [] s t :=
  ⟨s, t, [], rfl, rfl, emitted_nil_of_out_eq rfl, emitted_nil_of_out_eq rfl⟩

theorem cons {i : Instr} {is : List Instr} {s t u v : State} {es : List Event} (hs : exec i s = .next u)
    (ht : exec i t = .next v) (hsu : Emitted s u es) (htv : Emitted t v es) (h : SameEvents is u v) :
    SameEvents (i :: is) s t := by
  obtain ⟨s', t', fs, hs', ht', hus', hvt'⟩ := h
  refine ⟨s', t', es ++ fs, ?_, ?_, ?_, ?_⟩
  · exact (congrArg (andThen · (runAll is)) hs).trans hs'
  · exact (congrArg (andThen · (runAll is)) ht).trans ht'
  · rw [Emitted, hus', hsu, List.append_assoc]
  · rw [Emitted, hvt', htv, List.append_assoc]

/-- A run has one outcome, so that two states that agree with a third agree with each other. -/
theorem of_common {is : List Instr} {r s t : State} (hs : SameEvents is r s) (ht : SameEvents is r t) :
    SameEvents is s t := by
  obtain ⟨r₁, s', es, hr₁, hs', hres, hses⟩ := hs
  obtain ⟨r₂, t', fs, hr₂, ht', hrfs, htfs⟩ := ht
  obtain rfl := Host.Outcome.next.inj (hr₁.symm.trans hr₂)
  obtain rfl := List.append_cancel_left (hres.symm.trans hrfs)
  exact ⟨s', t', es, hs', ht', hses, htfs⟩

end SameEvents

theorem SameDecoder.targetAddr_eq {s t : State} (h : SameDecoder s t) : t.targetAddr = s.targetAddr := by
  obtain ⟨-, -, -, htarget, -⟩ := h
  exact htarget

theorem SameDecoder.setTarget {s t : State} (h : SameDecoder s t) (v : Byte) :
    SameDecoder (s.setTarget v) (t.setTarget v) := by
  obtain ⟨hstate, hidx, hsum, -, hread⟩ := h
  exact ⟨hstate, hidx, hsum, rfl, hread⟩

theorem execFeed_txPort {b : Byte} {s t : State} (h : execFeed b s = .next t) : t.txPort = s.txPort := by
  obtain ⟨-, -, -, hport⟩ := (update_of_execFeed h).controlKept
  exact hport

/-- What the host's further operations can tell of two states, the first of which meets R29's invariant: the target, the
transmit port and, once the connection's RESET is issued (`ready`), the FrameDecoder. -/
structure SameConnection (ready : Bool) (s t : State) : Prop where
  inv : FrameInv s
  targetAddr : t.targetAddr = s.targetAddr
  txPort : t.txPort = s.txPort
  decoder : ready = true → SameDecoder s t

namespace SameConnection

variable {ready : Bool} {s t : State}

theorem reopen (h : SameConnection ready s t) : SameConnection false s t :=
  ⟨h.inv, h.targetAddr, h.txPort, nofun⟩

/-- After RESET no byte is held, whatever was held before (R230). -/
theorem abandon (h : SameConnection ready s t) : SameConnection true s.abandon t.abandon :=
  ⟨h.inv.exec (exec_reset s), h.targetAddr, h.txPort,
    fun _ => ⟨rfl, rfl, rfl, h.targetAddr, fun i hi => absurd hi (Nat.not_lt_zero i)⟩⟩

theorem setTarget (h : SameConnection ready s t) (v : Byte) : SameConnection ready (s.setTarget v) (t.setTarget v) :=
  ⟨h.inv.setTarget v, rfl, h.txPort, fun hready => (h.decoder hready).setTarget v⟩

theorem emit (h : SameConnection ready s t) (es : List Event) : SameConnection ready (s.emit es) (t.emit es) :=
  ⟨h.inv.emit es, h.targetAddr, h.txPort, h.decoder⟩

/-- A FEED after the connection's RESET gives the same events, and leaves the decoders the same (R77). -/
theorem feed (h : SameConnection ready s t) (hready : ready = true) (b : Byte) :
    ∃ u v es, exec (.feed b) s = .next u ∧ exec (.feed b) t = .next v ∧ Emitted s u es ∧ Emitted t v es ∧
      SameConnection ready u v := by
  obtain ⟨u, v, es, hu, hv, hsu, htv, hsame⟩ := (h.decoder hready).execFeed h.inv b
  have hport : v.txPort = u.txPort := (execFeed_txPort hv).trans (h.txPort.trans (execFeed_txPort hu).symm)
  exact ⟨u, v, es, hu, hv, hsu, htv, h.inv.execFeed hu, hsame.targetAddr_eq, hport, fun _ => hsame⟩

/-- An instruction that only emits, and reads at most the transmit port, emits the same from both states. -/
theorem sameEvents_of_emits {i : Instr} {is : List Instr} {events : TxOutcome → List Event} (h : SameConnection ready s t)
    (hexec : ∀ u, exec i u = .next (u.emit (events u.txPort)))
    (hrest : ∀ {u v : State}, SameConnection ready u v → SameEvents is u v) : SameEvents (i :: is) s t :=
  have hexec' : exec i t = .next (t.emit (events s.txPort)) := h.txPort ▸ hexec t
  .cons (hexec s) hexec' rfl rfl (hrest (h.emit _))

/-- The host's further actions give the same events, if it issues RESET as R276 says. -/
theorem sameEvents {acts : List HostAction} (h : SameConnection ready s t) (hacts : resetsOnReopen ready acts = true) :
    SameEvents (hostInstrs acts) s t := by
  induction acts generalizing ready s t with
  | nil => exact .nil s t
  | cons act acts ih =>
    cases act with
    | reopen => exact ih h.reopen hacts
    | op i =>
      cases i with
      | feed b =>
        obtain ⟨hready, hrest⟩ := Bool.and_eq_true_iff.mp hacts
        obtain ⟨u, v, es, hu, hv, hsu, htv, huv⟩ := h.feed hready b
        exact .cons hu hv hsu htv (ih huv hrest)
      | reset =>
        exact .cons (exec_reset s) (exec_reset t) (emitted_nil_of_out_eq rfl) (emitted_nil_of_out_eq rfl)
          (ih h.abandon hacts)
      | setTarget v =>
        exact .cons (exec_setTarget v s) (exec_setTarget v t) (emitted_nil_of_out_eq rfl) (emitted_nil_of_out_eq rfl)
          (ih (h.setTarget v) hacts)
      | send a b => exact h.sameEvents_of_emits (exec_send_eq_emit a b) (ih · hacts)
      | cmdSensorReport rest =>
        exact h.sameEvents_of_emits (events := fun _ => reportEvents (Config.cmdReport :: rest)) (exec_cmdSensorReport rest)
          (ih · hacts)
      | cmdParams a p => exact h.sameEvents_of_emits (exec_send_eq_emit a p.body) (ih · hacts)
      | cmdWake a => exact h.sameEvents_of_emits (exec_send_eq_emit a [Config.cmdWake]) (ih · hacts)
      | cmdAutoreport a => exact h.sameEvents_of_emits (exec_send_eq_emit a [Config.cmdAutoreport]) (ih · hacts)
      | cmdOtherInbound c rest =>
        exact h.sameEvents_of_emits (events := fun _ => [.diag .cmdIgnored [c]]) (fun _ => rfl) (ih · hacts)

end SameConnection

/-- The power-on state with the target and the transmit port of `s`. -/
def freshFrom (s : State) : State := { powerOn s.targetAddr with txPort := s.txPort }

theorem freshFrom_frameInv (s : State) : FrameInv (freshFrom s) := (powerOn_frameInv s.targetAddr).of_eq rfl rfl rfl rfl

theorem sameConnection_freshFrom {s t : State} (htarget : s.targetAddr = t.targetAddr) (hport : s.txPort = t.txPort) :
    SameConnection false (freshFrom s) t :=
  ⟨freshFrom_frameInv s, htarget.symm, hport.symm, nofun⟩

/-- Settles O31: before the connection's RESET neither state can be told from the power-on state with the same target and
transmit port. -/
theorem reopenForgetsEarlierBytes : Obligations.ReopenForgetsEarlierBytes := by
  unfold Obligations.ReopenForgetsEarlierBytes
  intro acts s t hacts htarget hport
  have hs := (sameConnection_freshFrom (s := s) (t := s) rfl rfl).sameEvents hacts
  have ht := (sameConnection_freshFrom htarget hport).sameEvents hacts
  exact hs.of_common ht

end Sys2Proof
end

section
/-! SUPPORT. The power-on state (R290), with the obligation O1. -/

namespace Sys2Proof

/-- Settles O1: reset gives each register its value outright, so that R290's table holds field by field. -/
theorem resetLeavesPowerOnState : Obligations.ResetLeavesPowerOnState := by
  unfold Obligations.ResetLeavesPowerOnState
  exact ⟨rfl, rfl, rfl, rfl, rfl, rfl⟩

end Sys2Proof
end
